-- ==== Sys2Proof/Word.lean ====
section
/-! DEFINITION. The word types: a 64-bit register cell (10_state.md R21), an 8-bit buffer cell, and the 32-bit
command word (30_encoding.md R90). -/

namespace Sys2Proof

/-- The contents of a register cell, and a host REG access (10_state.md R21, 20_memory.md R67). -/
abbrev Word := BitVec 64

/-- The contents of a MSG or DIG cell (10_state.md R21). -/
abbrev Byte := BitVec 8

/-- A command word (30_encoding.md R90). -/
abbrev CmdWord := BitVec 32

end Sys2Proof
end

