-- ==== Sys2Proof/Syntax.lean ====
section
/-! DEFINITION. The commands, one constructor for each row of the opcode table (30_encoding.md R96), and the
names of the three command formats and of the two ways a word can fail to be a command. -/

namespace Sys2Proof

/-- The 18 commands (30_encoding.md R96). `n` and `t` are IMM8 (R94); `v` is the raw two-bit VAR field (R95),
which may hold the reserved code 0b11: INIT and RUN raise BAD_VARIANT on it when they are performed. -/
inductive Instr where
  | nop
  | rotl32 (n : BitVec 8)
  | rotr32 (n : BitVec 8)
  | rotl64 (n : BitVec 8)
  | rotr64 (n : BitVec 8)
  | init (v : BitVec 2)
  | pad
  | expand
  | wsinit
  | round (t : BitVec 8)
  | chain
  | compress
  | step
  | iterate
  | final
  | run (v : BitVec 2)
  | clrerr
  | sreset
  deriving DecidableEq, Repr

/-- The command formats (30_encoding.md R91, R92, R93). -/
inductive Format where
  | n
  | i
  | v
  deriving DecidableEq, Repr

/-- Why a word is no command; either way performing it raises ILLEGAL_CMD. -/
inductive DecodeError where
  /-- OP is not in the opcode table (30_encoding.md R98). -/
  | reservedOpcode
  /-- A field that the command's format reserves is not zero (30_encoding.md R99). -/
  | reservedField
  deriving DecidableEq, Repr

end Sys2Proof
end

