-- ==== Sys2Proof/WellFormed.lean ====
section
/-! DEFINITION. Which commands carry operands that the opcode table calls legal. The encoding admits every value
of IMM8 and VAR, and the decoder accepts them all; an operand outside these ranges is not a decoding error but an
architectural error of the command (60_exceptions.md R262, steps 4 and 6). -/

namespace Sys2Proof

/-- A rotation amount for width `w`: `0 < n < w` (40_rotate.md R122). -/
def legalAmount (w : Nat) (n : BitVec 8) : Bool :=
  decide (0 < n.toNat ∧ n.toNat < w)

/-- A round index that some variant has: `t < 80` (00_scope.md R2). Variant B, with 64 rounds, refuses more. -/
def legalRound (t : BitVec 8) : Bool :=
  decide (t.toNat < 80)

/-- A variant code that names a variant (00_scope.md R2). -/
def legalVariant (v : BitVec 2) : Bool :=
  decide (v ≠ 3#2)

/-- Every operand lies in the range the opcode table calls legal. -/
def Instr.wellFormed : Instr → Bool
  | .nop => true
  | .rotl32 n => legalAmount 32 n
  | .rotr32 n => legalAmount 32 n
  | .rotl64 n => legalAmount 64 n
  | .rotr64 n => legalAmount 64 n
  | .init v => legalVariant v
  | .pad => true
  | .expand => true
  | .wsinit => true
  | .round t => legalRound t
  | .chain => true
  | .compress => true
  | .step => true
  | .iterate => true
  | .final => true
  | .run v => legalVariant v
  | .clrerr => true
  | .sreset => true

end Sys2Proof
end

