-- ==== Sys2Proof/Decode.lean ====
section
/-! DEFINITION. Decoding and encoding of command words (30_encoding.md R90 to R101). -/

namespace Sys2Proof

/-- OP, `c[31:24]` (30_encoding.md R90). -/
def opField (c : CmdWord) : BitVec 8 := c.extractLsb' 24 8

/-- VAR, `c[15:14]` (30_encoding.md R95). -/
def varField (c : CmdWord) : BitVec 2 := c.extractLsb' 14 2

/-- IMM8, `c[7:0]` (30_encoding.md R94). -/
def immField (c : CmdWord) : BitVec 8 := c.extractLsb' 0 8

/-- The mask of a format: the bits that a word of it fixes (30_encoding.md R91, R92, R93). -/
def Format.mask : Format → CmdWord
  | .n => 0xFFFFFFFF#32
  | .i => 0xFFFFFF00#32
  | .v => 0xFFFF3FFF#32

/-- The row of the opcode table that OP selects: its format, and the command with its operand taken from the word
(30_encoding.md R96). -/
def tableRow (c : CmdWord) : Option (Format × Instr) :=
  match (opField c).toNat with
  | 0x00 => some (.n, .nop)
  | 0x01 => some (.i, .rotl32 (immField c))
  | 0x02 => some (.i, .rotr32 (immField c))
  | 0x03 => some (.i, .rotl64 (immField c))
  | 0x04 => some (.i, .rotr64 (immField c))
  | 0x10 => some (.v, .init (varField c))
  | 0x11 => some (.n, .pad)
  | 0x12 => some (.n, .expand)
  | 0x13 => some (.n, .wsinit)
  | 0x14 => some (.i, .round (immField c))
  | 0x15 => some (.n, .chain)
  | 0x16 => some (.n, .compress)
  | 0x17 => some (.n, .step)
  | 0x18 => some (.n, .iterate)
  | 0x19 => some (.n, .final)
  | 0x1A => some (.v, .run (varField c))
  | 0x1E => some (.n, .clrerr)
  | 0x1F => some (.n, .sreset)
  | _ => none

/-- A row's match word: its opcode in OP, every other bit zero (30_encoding.md R91 to R93). -/
def matchWord (op : BitVec 8) : CmdWord := op ++ 0#24

/-- The decoder of 30_encoding.md R97: select the row by OP, then check `c & mask = match`. -/
def decode (c : CmdWord) : Except DecodeError Instr :=
  match tableRow c with
  | none => .error .reservedOpcode
  | some (f, i) =>
    if c &&& f.mask = matchWord (opField c) then .ok i else .error .reservedField

/-- The opcode of a command (30_encoding.md R96). -/
def Instr.opcode : Instr → BitVec 8
  | .nop => 0x00#8
  | .rotl32 _ => 0x01#8
  | .rotr32 _ => 0x02#8
  | .rotl64 _ => 0x03#8
  | .rotr64 _ => 0x04#8
  | .init _ => 0x10#8
  | .pad => 0x11#8
  | .expand => 0x12#8
  | .wsinit => 0x13#8
  | .round _ => 0x14#8
  | .chain => 0x15#8
  | .compress => 0x16#8
  | .step => 0x17#8
  | .iterate => 0x18#8
  | .final => 0x19#8
  | .run _ => 0x1A#8
  | .clrerr => 0x1E#8
  | .sreset => 0x1F#8

/-- The format of a command (30_encoding.md R96). -/
def Instr.format : Instr → Format
  | .nop => .n
  | .rotl32 _ => .i
  | .rotr32 _ => .i
  | .rotl64 _ => .i
  | .rotr64 _ => .i
  | .init _ => .v
  | .pad => .n
  | .expand => .n
  | .wsinit => .n
  | .round _ => .i
  | .chain => .n
  | .compress => .n
  | .step => .n
  | .iterate => .n
  | .final => .n
  | .run _ => .v
  | .clrerr => .n
  | .sreset => .n

/-- A word of format N: `OP << 24` (30_encoding.md R91, R101). -/
def wordN (op : BitVec 8) : CmdWord := op ++ 0#24

/-- A word of format I: `OP << 24 | n` (30_encoding.md R92, R101). -/
def wordI (op n : BitVec 8) : CmdWord := op ++ 0#16 ++ n

/-- A word of format V: `OP << 24 | VAR << 14` (30_encoding.md R93, R101). -/
def wordV (op : BitVec 8) (v : BitVec 2) : CmdWord := op ++ 0#8 ++ v ++ 0#14

/-- The command word of a command (30_encoding.md R101). -/
def encode : Instr → CmdWord
  | .nop => wordN 0x00#8
  | .rotl32 n => wordI 0x01#8 n
  | .rotr32 n => wordI 0x02#8 n
  | .rotl64 n => wordI 0x03#8 n
  | .rotr64 n => wordI 0x04#8 n
  | .init v => wordV 0x10#8 v
  | .pad => wordN 0x11#8
  | .expand => wordN 0x12#8
  | .wsinit => wordN 0x13#8
  | .round t => wordI 0x14#8 t
  | .chain => wordN 0x15#8
  | .compress => wordN 0x16#8
  | .step => wordN 0x17#8
  | .iterate => wordN 0x18#8
  | .final => wordN 0x19#8
  | .run v => wordV 0x1A#8 v
  | .clrerr => wordN 0x1E#8
  | .sreset => wordN 0x1F#8

/-- The command word whose low `nbits` bits are those of `w` and whose other bits are zero (log 13). -/
def tableWord (nbits w : Nat) : CmdWord := BitVec.ofNat 32 (w % 2 ^ nbits)

/-- The command the decoder reads from a word of the opcode table (log 13). A command is one 32-bit value, which
has no byte order (20_memory.md R67, R71). -/
def decodeTableWord (nbits w : Nat) : Option Instr :=
  match decode (tableWord nbits w) with
  | .ok i => some i
  | .error _ => none

end Sys2Proof
end

