-- ==== Sys2Proof/Config.lean ====
section
/-! DEFINITION. What an implementation fixes: the three variants by name, the open parameters, and the free values
that the spec lets a model draw. -/

namespace Sys2Proof

/-- The three variants (00_scope.md R2). -/
inductive Variant where
  | A
  | B
  | C
  deriving DecidableEq, Repr

/-- The open parameters of the hardware that a rule reads. They are held in a field of the state that no
transition changes, so that a statement about every state is one about every value of them. -/
structure Params where
  /-- MSG_CAP, the capacity of the message buffer in bytes (00_scope.md R7). -/
  msgCap : Nat
  /-- VARIANT_A_SCHED_ROT: true is the value 1, false the value 0 (00_scope.md R6). -/
  schedRot : Bool
  deriving DecidableEq, Repr

/-- The legal values of MSG_CAP: a multiple of 128, at least 128, at most 2^61 (00_scope.md R7). -/
def Params.legal (p : Params) : Bool :=
  decide (p.msgCap % 128 = 0 ∧ 128 ≤ p.msgCap ∧ p.msgCap ≤ 2 ^ 61)

/-- DESIGN CHOICE (log 5): the parameters of the one machine that `State.reset` is. They are those the vectors of
95_test_vectors.md assume; no statement rests on them. -/
def Params.ofVectors : Params := { msgCap := 256, schedRot := true }

/-- HPE_BASE, where the host places the block in its own map (20_memory.md R79): an open parameter that no rule
reads (log 16). -/
opaque Config.hpeBase : Nat

/-- A free value (log 9): what the `k`-th host read made while BUSY = 1 returns, for a register (20_memory.md
R74: "returns an unspecified value. A model draws it freely"). -/
opaque Config.busyReadWord : Nat → Word

/-- A free value (log 9): the same for a MSG or DIG byte (20_memory.md R74). -/
opaque Config.busyReadByte : Nat → Byte

end Sys2Proof
end

