-- ==== Sys2Proof/Machine/State.lean ====
section
/-! DEFINITION. The state of the block (10_state.md R22) as plain data, the agents' events that the model's host
port holds, the ways a step can stop, and the state after reset (70_reset_and_hazards.md R290). -/

namespace Sys2Proof.Machine

/-- The architectural error codes of STATUS.ERR (60_exceptions.md R260). Codes 9 to 255 are reserved and never
written, so they have no constructor. -/
inductive ErrCode where
  | none
  | illegalCmd
  | badVariant
  | badShift
  | badRound
  | notInit
  | notPadded
  | noBlock
  | bufOverflow
  deriving DecidableEq, Repr

/-- The fields of STATUS (10_state.md R25). Bits 7:6 and 63:16 are reserved and read as 0, so they have no
storage. -/
structure Status where
  busy : Bool
  done : Bool
  padded : Bool
  valid : Bool
  ovr : Bool
  aerr : Bool
  err : ErrCode
  deriving DecidableEq, Repr

/-- A 64-bit data cell with its written mark: the spec's unwritten mark (10_state.md R21) is `written = false`. -/
structure DataCell where
  val : Word
  written : Bool
  deriving DecidableEq, Repr

/-- The bytes of a buffer (MSG or DIG) that carry no unwritten mark, as (address, byte) pairs by strictly rising
address. A cell that is not listed is marked unwritten (10_state.md R21, log 8). -/
structure Memory where
  cells : List Host.Cell
  deriving DecidableEq, Repr

/-- The name of a data cell (10_state.md R21): what a model fault names. -/
inductive CellId where
  | rotIn
  | rotOut
  | h (i : Nat)
  | ws (i : Nat)
  | w (i : Nat)
  | msg (a : Nat)
  | dig (a : Nat)
  deriving DecidableEq, Repr

/-- The registers of the REG map (20_memory.md R61). -/
inductive RegId where
  | cmd
  | status
  | variant
  | len
  | nblk
  | blk
  | rotIn
  | rotOut
  | msgcap
  | config
  | h (i : Fin 8)
  | ws (i : Fin 8)
  | w (i : Fin 80)
  deriving DecidableEq, Repr

/-- The host operations (20_memory.md R62 to R65). -/
inductive HostOp where
  | regRead (i : BitVec 16)
  | regWrite (i : BitVec 16) (v : Word)
  | msgRead (a : Nat)
  | msgWrite (a : Nat) (b : Byte)
  | digRead (a : Nat)
  deriving DecidableEq, Repr

/-- One transition of the history (20_memory.md R76): a host operation, an engine step, or the reset event
(70_reset_and_hazards.md R290). -/
inductive Event where
  | host (op : HostOp)
  | engine
  | reset
  deriving DecidableEq, Repr

/-- What a host read returns: a register's 64 bits or a buffer's 8 bits (20_memory.md R67). -/
inductive Reply where
  | word (v : Word)
  | byte (b : Byte)
  deriving DecidableEq, Repr

/-- The model's own fields, which are not the block's: the agents' side of the history (logs 1, 2, 9). -/
structure HostPort where
  /-- The events still to happen, in order. -/
  todo : List Event
  /-- What the host's reads have returned, newest first. -/
  replies : List Reply
  /-- How many free values have been drawn. -/
  draws : Nat
  deriving DecidableEq, Repr

/-- The whole state: the complete architectural state of 10_state.md R22, and the model's host port. -/
structure State where
  /-- LASTCMD, what a read of CMD returns (10_state.md R23). -/
  lastCmd : CmdWord
  /-- PENDING, with its valid bit (10_state.md R24). -/
  pending : Option CmdWord
  /-- STATUS (10_state.md R25). -/
  status : Status
  /-- VARIANT (10_state.md R33). -/
  variant : Variant
  /-- LEN (10_state.md R34). -/
  len : Word
  /-- NBLK (10_state.md R35). -/
  nblk : Word
  /-- BLK (10_state.md R36). -/
  blk : Word
  /-- ROT_IN (10_state.md R39). -/
  rotIn : DataCell
  /-- ROT_OUT (10_state.md R40). -/
  rotOut : DataCell
  /-- H[0..7], the hash state (10_state.md R41). -/
  h : Vector DataCell 8
  /-- WS[0..7], the working state (10_state.md R42). -/
  ws : Vector DataCell 8
  /-- W[0..79], the message schedule (10_state.md R43). -/
  w : Vector DataCell 80
  /-- MSG, the message buffer (10_state.md R44). -/
  msg : Memory
  /-- DIG, the digest buffer (10_state.md R45). -/
  dig : Memory
  /-- The constants behind MSGCAP and CONFIG (10_state.md R37, R38). -/
  params : Params
  /-- The model's own host port. -/
  host : HostPort
  deriving DecidableEq, Repr

/-- Why the machine stops with a fault. Both stops are safe: the model has no next state where the hardware goes
on with a value that nothing fixes, or in a state no run reaches. -/
inductive Fault where
  /-- A model fault (00_scope.md R13, 60_exceptions.md R266): a command or a host read reads a cell whose
  unwritten mark is set. Raised by every read of a data cell. Safe. -/
  | unwritten (cell : CellId)
  /-- BUSY = 1 and PENDING is invalid, which contradicts 10_state.md R24; no run reaches it (log 11). Raised by
  the engine step. Safe. -/
  | noPending
  deriving DecidableEq, Repr

/-- Why the machine refuses. -/
inductive Refusal where
  /-- An instruction that has no meaning yet. Raised by no arm: every command is modelled. Safe. -/
  | notModelled (mnemonic : String)
  deriving DecidableEq, Repr

/-- The outcome of a step or of a part of one. -/
abbrev Result := Host.Outcome State Fault Refusal

/-- A data cell after reset: marked unwritten (70_reset_and_hazards.md R290). Its value is DESIGN CHOICE 0 (log 6)
and no read of the machine sees it. -/
def DataCell.unwritten : DataCell := { val := 0#64, written := false }

/-- A data cell that has been written with `v` (10_state.md R21). -/
def DataCell.ofWord (v : Word) : DataCell := { val := v, written := true }

/-- A buffer whose every cell is marked unwritten. -/
def Memory.empty : Memory := { cells := [] }

/-- STATUS = 0 (70_reset_and_hazards.md R290). -/
def Status.zero : Status :=
  { busy := false, done := false, padded := false, valid := false, ovr := false, aerr := false, err := .none }

/-- A host port with nothing to do and nothing recorded: DESIGN CHOICE (logs 1, 2, 9). -/
def HostPort.idle : HostPort := { todo := [], replies := [], draws := 0 }

/-- The block after the reset event (70_reset_and_hazards.md R290), for given parameters and host port. -/
def State.resetWith (p : Params) (port : HostPort) : State :=
  { lastCmd := 0#32
    pending := none
    status := Status.zero
    variant := .A
    len := 0#64
    nblk := 0#64
    blk := 0#64
    rotIn := DataCell.unwritten
    rotOut := DataCell.unwritten
    h := Vector.replicate 8 DataCell.unwritten
    ws := Vector.replicate 8 DataCell.unwritten
    w := Vector.replicate 80 DataCell.unwritten
    msg := Memory.empty
    dig := Memory.empty
    params := p
    host := port }

/-- The machine right after reset, with the parameters of log 5. -/
def State.reset : State := State.resetWith Params.ofVectors HostPort.idle

end Sys2Proof.Machine
end

