-- ==== Sys2Proof/Machine/Variants.lean ====
section
/-! DEFINITION. The variant parameters as functions of the variant (00_scope.md R2, R12), and the variant codes
(30_encoding.md R95). -/

namespace Sys2Proof.Machine

/-- The variant a VAR code names; 0b11 names none (00_scope.md R2). -/
def variantOfCode (v : BitVec 2) : Option Variant :=
  match v.toNat with
  | 0 => some .A
  | 1 => some .B
  | 2 => some .C
  | _ => none

/-- The variant code (00_scope.md R2). -/
def variantCode : Variant → BitVec 2
  | .A => 0#2
  | .B => 1#2
  | .C => 2#2

/-- `wb(v)`, bytes per word (00_scope.md R2). -/
def wordBytes : Variant → Nat
  | .A => 4
  | .B => 4
  | .C => 8

/-- `w(v)`, the word width in bits (00_scope.md R2). -/
def wordBits (v : Variant) : Nat := 8 * wordBytes v

/-- `n(v)`, words of state (00_scope.md R2). -/
def stateWords : Variant → Nat
  | .A => 5
  | .B => 8
  | .C => 8

/-- `R(v)`, rounds per block and schedule entries (00_scope.md R2). -/
def rounds : Variant → Nat
  | .A => 80
  | .B => 64
  | .C => 80

/-- `B(v)`, the block size in bytes (00_scope.md R2). -/
def blockBytes : Variant → Nat
  | .A => 64
  | .B => 64
  | .C => 128

/-- `L(v)`, the width of the length field in bytes (00_scope.md R2). -/
def lengthBytes : Variant → Nat
  | .A => 8
  | .B => 8
  | .C => 16

/-- `D(v) = n·wb`, the digest length in bytes (00_scope.md R2). -/
def digestBytes (v : Variant) : Nat := stateWords v * wordBytes v

end Sys2Proof.Machine
end

