-- ==== Sys2Proof/Machine/Operands.lean ====
section
/-! DEFINITION. The operand forms: the 32-bit and 64-bit views of a cell (10_state.md R46), the immediate and variant
operands (30_encoding.md R94, R95), the register files, and big-endian byte sequences (00_scope.md R11). -/

namespace Sys2Proof.Machine

/-- `low_32(x)` (10_state.md R46). -/
def low32 (x : Word) : BitVec 32 := x.setWidth 32

/-- `zext_64(v)` (00_scope.md R11). -/
def zext64 {k : Nat} (v : BitVec k) : Word := v.setWidth 64

/-- `zext_64(low_w(x))` for the variant's word width: what a command of that variant copies (10_state.md R46). -/
def lowWord (v : Variant) (x : Word) : Word :=
  match v with
  | .A => zext64 (low32 x)
  | .B => zext64 (low32 x)
  | .C => x

/-- `zext_64(low_w(x) +_w low_w(y))`: the sum wraps modulo 2^w (00_scope.md R10). -/
def addWords (v : Variant) (x y : Word) : Word :=
  match v with
  | .A => zext64 (low32 x + low32 y)
  | .B => zext64 (low32 x + low32 y)
  | .C => x + y

/-- IMM8 as an unsigned integer, not scaled (30_encoding.md R94). -/
def immValue (n : BitVec 8) : Nat := n.toNat

/-- The value of cell `i` of a register file. -/
def cellValue {n : Nat} (f : Vector DataCell n) (i : Nat) : Word :=
  (f.toList.getD i DataCell.unwritten).val

/-- Whether cell `i` of a register file exists and carries no unwritten mark (10_state.md R21). -/
def cellWritten {n : Nat} (f : Vector DataCell n) (i : Nat) : Bool :=
  (f.toList.getD i DataCell.unwritten).written

/-- The cells of a list with the first ones written by the words given (10_state.md R21: a write clears the mark). -/
def writeFrom : List DataCell → List Word → List DataCell
  | [], _ => []
  | c :: cs, [] => c :: cs
  | _ :: cs, v :: vs => DataCell.ofWord v :: writeFrom cs vs

theorem writeFrom_length (cs : List DataCell) (vs : List Word) : (writeFrom cs vs).length = cs.length := by
  induction cs generalizing vs with
  | nil => rfl
  | cons c cs ih => cases vs <;> simp [writeFrom, ih]

/-- Cells 0, 1, … of a register file written with the words given; the other cells keep value and mark. -/
def writeFirst {n : Nat} (f : Vector DataCell n) (vs : List Word) : Vector DataCell n :=
  ⟨(writeFrom f.toList vs).toArray, by simp [writeFrom_length]⟩

/-- `BE_n(v)`: the n-byte big-endian sequence of v, most significant byte first (00_scope.md R11). -/
def bytesBE : Nat → Nat → List Byte
  | 0, _ => []
  | n + 1, v => BitVec.ofNat 8 (v / 2 ^ (8 * n)) :: bytesBE n v

/-- The unsigned integer of a big-endian byte sequence (00_scope.md R11, MemRead). -/
def ofBytesBE : List Byte → Nat
  | [] => 0
  | b :: bs => b.toNat * 2 ^ (8 * bs.length) + ofBytesBE bs

end Sys2Proof.Machine
end

