-- ==== Sys2Proof/Machine/Flags.lean ====
section
/-! DEFINITION. STATUS: its error codes, its word as the host reads it, and the changes that commands and host
accesses make to its fields (10_state.md R25). -/

namespace Sys2Proof.Machine

/-- The number of an error code (60_exceptions.md R260). -/
def errNumber : ErrCode → BitVec 8
  | .none => 0#8
  | .illegalCmd => 1#8
  | .badVariant => 2#8
  | .badShift => 3#8
  | .badRound => 4#8
  | .notInit => 5#8
  | .notPadded => 6#8
  | .noBlock => 7#8
  | .bufOverflow => 8#8

/-- One bit of a register, from a flag. -/
def flagBit (b : Bool) : BitVec 1 := BitVec.ofBool b

/-- STATUS as a 64-bit value, most significant field first; the reserved fields are zero (10_state.md R25). -/
def statusWord (st : Status) : Word :=
  0#48 ++ errNumber st.err ++ 0#2 ++ flagBit st.aerr ++ flagBit st.ovr ++ flagBit st.valid ++ flagBit st.padded
    ++ flagBit st.done ++ flagBit st.busy

/-- STATUS.ERR <- code (60_exceptions.md R261). -/
def Status.withErr (st : Status) (e : ErrCode) : Status := { st with err := e }

/-- STATUS.BUSY <- b (10_state.md R26). -/
def Status.withBusy (st : Status) (b : Bool) : Status := { st with busy := b }

/-- STATUS.OVR <- 1 (10_state.md R30). -/
def Status.withOvr (st : Status) : Status := { st with ovr := true }

/-- STATUS.AERR <- 1 (10_state.md R31). -/
def Status.withAerr (st : Status) : Status := { st with aerr := true }

/-- INIT's flags: VALID <- 1, PADDED <- 0, DONE <- 0 (44_chaining.md R211). -/
def Status.afterInit (st : Status) : Status := { st with valid := true, padded := false, done := false }

/-- PAD's flags: PADDED <- 1, DONE <- 0 (41_padding.md R143). -/
def Status.afterPad (st : Status) : Status := { st with padded := true, done := false }

/-- FINAL's flag: DONE <- 1 (44_chaining.md R215). -/
def Status.afterFinal (st : Status) : Status := { st with done := true }

/-- CLRERR's flags: ERR, OVR, AERR <- 0 (45_control.md R241). -/
def Status.afterClrerr (st : Status) : Status := { st with err := .none, ovr := false, aerr := false }

/-- SRESET's flags: every field but BUSY becomes 0; BUSY is cleared by the end of the engine step
(45_control.md R242). -/
def Status.afterSreset (st : Status) : Status := { Status.zero with busy := st.busy }

end Sys2Proof.Machine
end

