-- ==== Sys2Proof/Machine/Ops.lean ====
section
/-! DEFINITION. The named operations over registers and memory: one setter for each field of the state, the buffer
operations, the checks that every meaning shares, and the raising of an architectural error, which is all this
hardware has in place of taking an exception (60_exceptions.md R261). -/

namespace Sys2Proof.Machine

/-- LASTCMD (10_state.md R23) <- c. -/
def State.setLastCmd (s : State) (c : CmdWord) : State := { s with lastCmd := c }

/-- PENDING (10_state.md R24) <- p. -/
def State.setPending (s : State) (p : Option CmdWord) : State := { s with pending := p }

/-- STATUS (10_state.md R25) <- st. -/
def State.setStatus (s : State) (st : Status) : State := { s with status := st }

/-- VARIANT (10_state.md R33) <- v. -/
def State.setVariant (s : State) (v : Variant) : State := { s with variant := v }

/-- LEN (10_state.md R34) <- v. -/
def State.setLen (s : State) (v : Word) : State := { s with len := v }

/-- NBLK (10_state.md R35) <- v. -/
def State.setNblk (s : State) (v : Word) : State := { s with nblk := v }

/-- BLK (10_state.md R36) <- v. -/
def State.setBlk (s : State) (v : Word) : State := { s with blk := v }

/-- ROT_IN (10_state.md R39) <- d. -/
def State.setRotIn (s : State) (d : DataCell) : State := { s with rotIn := d }

/-- ROT_OUT (10_state.md R40) <- d. -/
def State.setRotOut (s : State) (d : DataCell) : State := { s with rotOut := d }

/-- H (10_state.md R41) <- f. -/
def State.setH (s : State) (f : Vector DataCell 8) : State := { s with h := f }

/-- WS (10_state.md R42) <- f. -/
def State.setWs (s : State) (f : Vector DataCell 8) : State := { s with ws := f }

/-- W (10_state.md R43) <- f. -/
def State.setW (s : State) (f : Vector DataCell 80) : State := { s with w := f }

/-- MSG (10_state.md R44) <- m. -/
def State.setMsg (s : State) (m : Memory) : State := { s with msg := m }

/-- DIG (10_state.md R45) <- m. -/
def State.setDig (s : State) (m : Memory) : State := { s with dig := m }

/-- the model's host port <- p. -/
def State.setHost (s : State) (p : HostPort) : State := { s with host := p }
/-! ### Buffers -/

/-- The byte at an address, if the cell is written. -/
def lookupCell : List Host.Cell → Nat → Option Byte
  | [], _ => none
  | (k, b) :: cs, a => if k = a then some b else lookupCell cs a

/-- The list with the cell at an address written; it keeps the addresses strictly rising. -/
def insertCell : List Host.Cell → Nat → Byte → List Host.Cell
  | [], a, b => [(a, b)]
  | (k, c) :: cs, a, b =>
    if a < k then (a, b) :: (k, c) :: cs
    else if a = k then (a, b) :: cs
    else (k, c) :: insertCell cs a b

/-- The byte of a buffer at an address; none where the cell is marked unwritten (10_state.md R21). -/
def Memory.read (m : Memory) (a : Nat) : Option Byte := lookupCell m.cells a

/-- A write of one byte; it clears the cell's unwritten mark (10_state.md R21). -/
def Memory.write (m : Memory) (a : Nat) (b : Byte) : Memory := { cells := insertCell m.cells a b }

/-- Writes of consecutive bytes from an address upward (00_scope.md R11, MemWrite). -/
def Memory.writeBytes (m : Memory) (a : Nat) (bs : List Byte) : Memory :=
  match bs with
  | [] => m
  | b :: bs => (m.write a b).writeBytes (a + 1) bs

/-- The value of the byte at an address. Every use stands behind a check that the cell is written. -/
def Memory.byteAt (m : Memory) (a : Nat) : Byte := (m.read a).getD 0#8

/-- `MemRead(MSG, a, n)`: n bytes as a big-endian unsigned integer (00_scope.md R11). -/
def Memory.readBE (m : Memory) (a n : Nat) : Nat := ofBytesBE ((List.range n).map fun k => m.byteAt (a + k))

/-- The canonical form: addresses strictly rising (log 8). -/
abbrev Memory.wf (m : Memory) : Prop := m.cells.Pairwise fun x y => x.1 < y.1

/-- Every listed address is below a bound: the buffer has no cell beyond it (20_memory.md R60). -/
abbrev Memory.below (m : Memory) (bound : Nat) : Prop := ∀ c ∈ m.cells, c.1 < bound

/-! ### Unwritten marks -/

/-- Whether a data cell carries no unwritten mark (10_state.md R21). -/
def State.isWritten (s : State) : CellId → Bool
  | .rotIn => s.rotIn.written
  | .rotOut => s.rotOut.written
  | .h i => cellWritten s.h i
  | .ws i => cellWritten s.ws i
  | .w i => cellWritten s.w i
  | .msg a => (s.msg.read a).isSome
  | .dig a => (s.dig.read a).isSome

/-- The names of `count` cells with consecutive numbers. -/
def cellRange (mk : Nat → CellId) (first count : Nat) : List CellId :=
  (List.range count).map fun i => mk (first + i)

/-- A read of the cells named: a model fault if one of them is marked unwritten (10_state.md R21,
60_exceptions.md R266; the fault names the first such cell, log 7), otherwise the outcome given. -/
def needWritten (cells : List CellId) (s : State) (r : Result) : Result :=
  match cells.find? fun c => !s.isWritten c with
  | some c => .fault (.unwritten c)
  | none => r

/-! ### Errors and sequencing -/

/-- `raise E` (60_exceptions.md R261): STATUS.ERR takes the code and no other cell changes. -/
def raise (e : ErrCode) (s : State) : Result := .next (s.setStatus (s.status.withErr e))

/-- The recovery from an error (60_exceptions.md R264): the host's command clears ERR, OVR and AERR. There is no
return from an exception, because none is taken. -/
def clearErrors (s : State) : Result := .next (s.setStatus s.status.afterClrerr)

/-- Step 5 of 60_exceptions.md R262: NOT_INIT unless STATUS.VALID = 1. -/
def requireValid (s : State) (r : Result) : Result := if s.status.valid then r else raise .notInit s

/-- One operation and then another: the second starts in the state the first leaves. -/
def andThen (r : Result) (k : State → Result) : Result :=
  match r with
  | .next s => k s
  | .fault f => .fault f
  | .refused f => .refused f

end Sys2Proof.Machine
end

