-- ==== Sys2Proof/Machine/Padding.lean ====
section
/-! DEFINITION. The padding function and PAD (41_padding.md). -/

namespace Sys2Proof.Machine

/-- `z(len)`, the number of zero bytes, as an unbounded integer (41_padding.md R140). -/
def zeroCount (v : Variant) (len : Nat) : Nat :=
  (blockBytes v - (len + 1 + lengthBytes v) % blockBytes v) % blockBytes v

/-- `padlen(len)`, the padded length, as an unbounded integer (41_padding.md R140). -/
def padLen (v : Variant) (len : Nat) : Nat := len + 1 + zeroCount v len + lengthBytes v

/-- `bitlen = (8 · len) mod 2^64` (41_padding.md R141). -/
def bitLen (len : Nat) : Nat := 8 * len % 2 ^ 64

/-- The padding bytes: 0x80, the zero bytes, and the length field `BE_L(bitlen)` (41_padding.md R142, R143). -/
def paddingBytes (v : Variant) (len : Nat) : List Byte :=
  0x80#8 :: (List.replicate (zeroCount v len) 0#8 ++ bytesBE (lengthBytes v) (bitLen len))

/-- Step 9 of 60_exceptions.md R262: the padded message fits in MSG. -/
def fits (v : Variant) (s : State) : Bool := decide (padLen v s.len.toNat ≤ s.params.msgCap)

/-- The effect of PAD once its checks have passed (41_padding.md R143). -/
def padEffect (s : State) : State :=
  ((((s.setMsg (s.msg.writeBytes s.len.toNat (paddingBytes s.variant s.len.toNat))).setNblk
    (BitVec.ofNat 64 (padLen s.variant s.len.toNat / blockBytes s.variant))).setBlk 0#64).setStatus
    s.status.afterPad)

/-- `PAD` (41_padding.md R143). -/
def execPad (s : State) : Result :=
  requireValid s (if fits s.variant s then .next (padEffect s) else raise .bufOverflow s)

end Sys2Proof.Machine
end

