-- ==== Sys2Proof/Machine/Rotate.lean ====
section
/-! DEFINITION. The rotation functions and the four rotation commands (40_rotate.md). -/

namespace Sys2Proof.Machine

/-- `rotl_w(x, n)`, for 0 < n < w (40_rotate.md R120). -/
def rotl {w : Nat} (x : BitVec w) (n : Nat) : BitVec w := (x <<< n) ||| (x >>> (w - n))

/-- `rotr_w(x, n)`, for 0 < n < w (40_rotate.md R121). -/
def rotr {w : Nat} (x : BitVec w) (n : Nat) : BitVec w := (x >>> n) ||| (x <<< (w - n))

/-- The amounts that a rotation of width w accepts: `1 <= n <= w - 1` (40_rotate.md R123 to R126). -/
def amountOk (w n : Nat) : Bool := decide (1 ≤ n ∧ n < w)

/-- What the four rotation commands share: BAD_SHIFT outside 1..w-1, otherwise read ROT_IN and write ROT_OUT
(40_rotate.md R123 to R126). -/
def rotateInto (w : Nat) (n : BitVec 8) (result : Word) (s : State) : Result :=
  if amountOk w (immValue n) then
    needWritten [.rotIn] s (.next (s.setRotOut (DataCell.ofWord result)))
  else raise .badShift s

/-- `ROTL32 #n` (40_rotate.md R123). -/
def execRotl32 (n : BitVec 8) (s : State) : Result :=
  rotateInto 32 n (zext64 (rotl (low32 s.rotIn.val) (immValue n))) s

/-- `ROTR32 #n` (40_rotate.md R124). -/
def execRotr32 (n : BitVec 8) (s : State) : Result :=
  rotateInto 32 n (zext64 (rotr (low32 s.rotIn.val) (immValue n))) s

/-- `ROTL64 #n` (40_rotate.md R125). -/
def execRotl64 (n : BitVec 8) (s : State) : Result :=
  rotateInto 64 n (rotl s.rotIn.val (immValue n)) s

/-- `ROTR64 #n` (40_rotate.md R126). -/
def execRotr64 (n : BitVec 8) (s : State) : Result :=
  rotateInto 64 n (rotr s.rotIn.val (immValue n)) s

end Sys2Proof.Machine
end

