-- ==== Sys2Proof/Machine/Schedule.lean ====
section
/-! DEFINITION. The message schedule and EXPAND (42_schedule.md). -/

namespace Sys2Proof.Machine

/-- σ0 of Variant B (42_schedule.md R162). -/
def smallSigma0B (x : BitVec 32) : BitVec 32 := rotr x 7 ^^^ rotr x 18 ^^^ (x >>> 3)

/-- σ1 of Variant B (42_schedule.md R162). -/
def smallSigma1B (x : BitVec 32) : BitVec 32 := rotr x 17 ^^^ rotr x 19 ^^^ (x >>> 10)

/-- σ0 of Variant C (42_schedule.md R164). -/
def smallSigma0C (x : BitVec 64) : BitVec 64 := rotr x 1 ^^^ rotr x 8 ^^^ (x >>> 7)

/-- σ1 of Variant C (42_schedule.md R164). -/
def smallSigma1C (x : BitVec 64) : BitVec 64 := rotr x 19 ^^^ rotr x 61 ^^^ (x >>> 6)

/-- `W[i−k]`, from the entries before entry i, newest first. -/
def back {w : Nat} (earlier : List (BitVec w)) (k : Nat) : BitVec w := earlier.getD (k - 1) 0#w

/-- The recurrence of Variant A, with the rotation amount 1 or with no rotation applied (42_schedule.md R161). -/
def nextA (schedRot : Bool) (earlier : List (BitVec 32)) : BitVec 32 :=
  let x := back earlier 3 ^^^ back earlier 8 ^^^ back earlier 14 ^^^ back earlier 16
  if schedRot then rotl x 1 else x

/-- The recurrence of Variant B (42_schedule.md R163). -/
def nextB (earlier : List (BitVec 32)) : BitVec 32 :=
  back earlier 16 + smallSigma0B (back earlier 15) + back earlier 7 + smallSigma1B (back earlier 2)

/-- The recurrence of Variant C (42_schedule.md R165). -/
def nextC (earlier : List (BitVec 64)) : BitVec 64 :=
  back earlier 16 + smallSigma0C (back earlier 15) + back earlier 7 + smallSigma1C (back earlier 2)

/-- `count` further entries put before the entries given, newest first. -/
def extend {w : Nat} (next : List (BitVec w) → BitVec w) : Nat → List (BitVec w) → List (BitVec w)
  | 0, acc => acc
  | count + 1, acc => extend next count (next acc :: acc)

/-- The first `r` entries of the schedule of a block: the 16 block words, then the recurrence
(42_schedule.md R166). -/
def schedule {w : Nat} (next : List (BitVec w) → BitVec w) (r : Nat) (block : List (BitVec w)) : List (BitVec w) :=
  (extend next (r - 16) block.reverse).reverse

/-- The MSG address of block BLK: `BLK·B` (20_memory.md R72). -/
def blockStart (s : State) : Nat := s.blk.toNat * blockBytes s.variant

/-- `M_k[j]` for the block k = BLK: the big-endian word j of the block (42_schedule.md R160). -/
def blockWord (s : State) (j : Nat) : Nat :=
  s.msg.readBE (blockStart s + j * wordBytes s.variant) (wordBytes s.variant)

/-- The 16 words of block BLK as w-bit words. -/
def blockWords (w : Nat) (s : State) : List (BitVec w) :=
  (List.range 16).map fun j => BitVec.ofNat w (blockWord s j)

/-- The schedule of block BLK as the 64-bit values written to W (42_schedule.md R166). -/
def scheduleWords (s : State) : List Word :=
  match s.variant with
  | .A => (schedule (nextA s.params.schedRot) (rounds .A) (blockWords 32 s)).map zext64
  | .B => (schedule nextB (rounds .B) (blockWords 32 s)).map zext64
  | .C => schedule nextC (rounds .C) (blockWords 64 s)

/-- The effect of EXPAND on a written block (42_schedule.md R166). -/
def expandEffect (s : State) : State := s.setW (writeFirst s.w (scheduleWords s))

/-- The cells EXPAND reads: the B bytes of block BLK (20_memory.md R73). -/
def expandReads (s : State) : List CellId := cellRange .msg (blockStart s) (blockBytes s.variant)

/-- "perform EXPAND", once its checks have passed. -/
def performExpand (s : State) : Result := needWritten (expandReads s) s (.next (expandEffect s))

/-- Step 8 of 60_exceptions.md R262: there is a block to expand, `BLK < NBLK`. -/
def hasBlock (s : State) : Bool := decide (s.blk.toNat < s.nblk.toNat)

/-- `EXPAND` (42_schedule.md R166). -/
def execExpand (s : State) : Result :=
  requireValid s (if hasBlock s then performExpand s else raise .noBlock s)

end Sys2Proof.Machine
end

