-- ==== Sys2Proof/Machine/Rounds.lean ====
section
/-! DEFINITION. The compression rounds: WSINIT, ROUND, COMPRESS (43_compression.md), and the fold of the working
state into the hash state that COMPRESS ends with (44_chaining.md R212). -/

namespace Sys2Proof.Machine

/-! ### Word functions -/

/-- Ch(x, y, z) (43_compression.md R181). -/
def ch {w : Nat} (x y z : BitVec w) : BitVec w := (x &&& y) ^^^ (~~~x &&& z)

/-- Parity(x, y, z) (43_compression.md R181). -/
def parity {w : Nat} (x y z : BitVec w) : BitVec w := x ^^^ y ^^^ z

/-- Maj(x, y, z) (43_compression.md R181). -/
def maj {w : Nat} (x y z : BitVec w) : BitVec w := (x &&& y) ^^^ (x &&& z) ^^^ (y &&& z)

/-- f_t, Variant A's mixing function, one per 20-round band (43_compression.md R181). -/
def mixA (t : Nat) (x y z : BitVec 32) : BitVec 32 :=
  if t < 20 then ch x y z
  else if t < 40 then parity x y z
  else if t < 60 then maj x y z
  else parity x y z

/-- Σ0 of Variant B (43_compression.md R185). -/
def bigSigma0B (x : BitVec 32) : BitVec 32 := rotr x 2 ^^^ rotr x 13 ^^^ rotr x 22

/-- Σ1 of Variant B (43_compression.md R185). -/
def bigSigma1B (x : BitVec 32) : BitVec 32 := rotr x 6 ^^^ rotr x 11 ^^^ rotr x 25

/-- Σ0 of Variant C (43_compression.md R187). -/
def bigSigma0C (x : BitVec 64) : BitVec 64 := rotr x 28 ^^^ rotr x 34 ^^^ rotr x 39

/-- Σ1 of Variant C (43_compression.md R187). -/
def bigSigma1C (x : BitVec 64) : BitVec 64 := rotr x 14 ^^^ rotr x 18 ^^^ rotr x 41

/-! ### Round functions -/

/-- The working state of Variant A (10_state.md R42). -/
structure Work5 where
  a : BitVec 32
  b : BitVec 32
  c : BitVec 32
  d : BitVec 32
  e : BitVec 32
  deriving DecidableEq, Repr

/-- The working state of Variants B and C, with words of width w (10_state.md R42). -/
structure Work8 (w : Nat) where
  a : BitVec w
  b : BitVec w
  c : BitVec w
  d : BitVec w
  e : BitVec w
  f : BitVec w
  g : BitVec w
  h : BitVec w
  deriving DecidableEq, Repr

/-- The round function of Variant A (43_compression.md R182). -/
def roundA (t : Nat) (wt : BitVec 32) (x : Work5) : Work5 :=
  { a := rotl x.a 5 + mixA t x.b x.c x.d + x.e + constA t + wt
    b := x.a
    c := rotl x.b 30
    d := x.c
    e := x.d }

/-- The round function that Variants B and C share, for their Σ0, Σ1 and round constant k
(43_compression.md R186, R189). -/
def round8 {w : Nat} (sigma0 sigma1 : BitVec w → BitVec w) (k wt : BitVec w) (x : Work8 w) : Work8 w :=
  let t1 := x.h + sigma1 x.e + ch x.e x.f x.g + k + wt
  let t2 := sigma0 x.a + maj x.a x.b x.c
  { a := t1 + t2
    b := x.a
    c := x.b
    d := x.c
    e := x.d + t1
    f := x.e
    g := x.f
    h := x.g }

/-- The round function of Variant B (43_compression.md R186). -/
def roundB (t : Nat) (wt : BitVec 32) (x : Work8 32) : Work8 32 := round8 bigSigma0B bigSigma1B (constB t) wt x

/-- The round function of Variant C (43_compression.md R189). -/
def roundC (t : Nat) (wt : BitVec 64) (x : Work8 64) : Work8 64 := round8 bigSigma0C bigSigma1C (constC t) wt x

/-- The tuple (a, …, e) from its numbered components. -/
def Work5.ofFn (f : Nat → BitVec 32) : Work5 := { a := f 0, b := f 1, c := f 2, d := f 3, e := f 4 }

/-- The tuple (a, …, h) from its numbered components. -/
def Work8.ofFn {w : Nat} (f : Nat → BitVec w) : Work8 w :=
  { a := f 0, b := f 1, c := f 2, d := f 3, e := f 4, f := f 5, g := f 6, h := f 7 }

/-- The components of the tuple in order. -/
def Work5.toList (x : Work5) : List (BitVec 32) := [x.a, x.b, x.c, x.d, x.e]

/-- The components of the tuple in order. -/
def Work8.toList {w : Nat} (x : Work8 w) : List (BitVec w) := [x.a, x.b, x.c, x.d, x.e, x.f, x.g, x.h]

/-! ### WSINIT -/

/-- The cells WSINIT reads: H[0..<n] (20_memory.md R73). -/
def wsinitReads (s : State) : List CellId := cellRange .h 0 (stateWords s.variant)

/-- The words WSINIT writes: `zext_64(low_w(H[i]))` for i < n (43_compression.md R190). -/
def wsinitWords (s : State) : List Word :=
  (List.range (stateWords s.variant)).map fun i => lowWord s.variant (cellValue s.h i)

/-- "perform WSINIT", once its checks have passed (43_compression.md R190). -/
def performWsinit (s : State) : Result :=
  needWritten (wsinitReads s) s (.next (s.setWs (writeFirst s.ws (wsinitWords s))))

/-- `WSINIT` (43_compression.md R190). -/
def execWsinit (s : State) : Result := requireValid s (performWsinit s)

/-! ### ROUND -/

/-- The cells ROUND #t reads: WS[0..<n] and W[t] (20_memory.md R73). -/
def roundReads (t : Nat) (s : State) : List CellId := .w t :: cellRange .ws 0 (stateWords s.variant)

/-- The words ROUND #t writes to WS[0..<n] (43_compression.md R191). -/
def roundWords (t : Nat) (s : State) : List Word :=
  match s.variant with
  | .A => (roundA t (low32 (cellValue s.w t)) (Work5.ofFn fun i => low32 (cellValue s.ws i))).toList.map zext64
  | .B => (roundB t (low32 (cellValue s.w t)) (Work8.ofFn fun i => low32 (cellValue s.ws i))).toList.map zext64
  | .C => (roundC t (cellValue s.w t) (Work8.ofFn fun i => cellValue s.ws i)).toList

/-- "perform ROUND #t", once its checks have passed (43_compression.md R191). -/
def performRound (t : Nat) (s : State) : Result :=
  needWritten (roundReads t s) s (.next (s.setWs (writeFirst s.ws (roundWords t s))))

/-- `ROUND #t` (43_compression.md R191). -/
def execRound (t : BitVec 8) (s : State) : Result :=
  requireValid s (if immValue t < rounds s.variant then performRound (immValue t) s else raise .badRound s)

/-! ### The fold -/

/-- The cells CHAIN reads: H[0..<n] and WS[0..<n] (20_memory.md R73). -/
def chainReads (s : State) : List CellId :=
  cellRange .h 0 (stateWords s.variant) ++ cellRange .ws 0 (stateWords s.variant)

/-- The words CHAIN writes: `zext_64(low_w(H[i]) +_w low_w(WS[i]))` for i < n (44_chaining.md R212). -/
def chainWords (s : State) : List Word :=
  (List.range (stateWords s.variant)).map fun i => addWords s.variant (cellValue s.h i) (cellValue s.ws i)

/-- "perform CHAIN", once its checks have passed (44_chaining.md R212). -/
def performChain (s : State) : Result :=
  needWritten (chainReads s) s (.next (s.setH (writeFirst s.h (chainWords s))))

/-! ### COMPRESS -/

/-- "for t in first..<first+count: perform ROUND #t" (43_compression.md R192). -/
def performRounds : Nat → Nat → State → Result
  | 0, _, s => .next s
  | count + 1, first, s => andThen (performRound first s) (performRounds count (first + 1))

/-- "perform COMPRESS", once its checks have passed (43_compression.md R192). -/
def performCompress (s : State) : Result :=
  andThen (andThen (performWsinit s) fun s => performRounds (rounds s.variant) 0 s) performChain

/-- `COMPRESS` (43_compression.md R192). -/
def execCompress (s : State) : Result := requireValid s (performCompress s)

end Sys2Proof.Machine
end

