-- ==== Sys2Proof/Machine/Chaining.lean ====
section
/-! DEFINITION. Hash state, chaining, block iteration and finalisation: INIT, CHAIN, STEP, ITERATE, FINAL, RUN
(44_chaining.md). -/

namespace Sys2Proof.Machine

/-! ### INIT -/

/-- H after INIT v: the initial hash value, and 0 in H[n..7] (44_chaining.md R211). -/
def initWords (v : Variant) : List Word := initialHash v ++ List.replicate (8 - stateWords v) 0#64

/-- The effect of INIT v (44_chaining.md R211). -/
def initEffect (v : Variant) (s : State) : State :=
  ((((s.setVariant v).setH (writeFirst s.h (initWords v))).setNblk 0#64).setBlk 0#64).setStatus s.status.afterInit

/-- `INIT v` (44_chaining.md R211). -/
def execInit (v : BitVec 2) (s : State) : Result :=
  match variantOfCode v with
  | some v => .next (initEffect v s)
  | none => raise .badVariant s

/-! ### CHAIN -/

/-- `CHAIN` (44_chaining.md R212). -/
def execChain (s : State) : Result := requireValid s (performChain s)

/-! ### STEP and ITERATE -/

/-- "BLK <- BLK + 1" (44_chaining.md R213). -/
def advanceBlk (s : State) : State := s.setBlk (s.blk + 1#64)

/-- "perform STEP", once its checks have passed (44_chaining.md R213). -/
def performStep (s : State) : Result :=
  andThen (andThen (performExpand s) performCompress) fun s => .next (advanceBlk s)

/-- `STEP` (44_chaining.md R213). -/
def execStep (s : State) : Result :=
  requireValid s (if hasBlock s then performStep s else raise .noBlock s)

/-- `count` times "perform STEP". -/
def performSteps : Nat → State → Result
  | 0, s => .next s
  | count + 1, s => andThen (performStep s) (performSteps count)

/-- "while BLK < NBLK: perform STEP" (44_chaining.md R214). STEP adds 1 to BLK and leaves NBLK, so the loop runs
NBLK − BLK times, and not at all where BLK ≥ NBLK (log 23). -/
def performIterate (s : State) : Result := performSteps (s.nblk.toNat - s.blk.toNat) s

/-- `ITERATE` (44_chaining.md R214). -/
def execIterate (s : State) : Result :=
  requireValid s (if s.status.padded then performIterate s else raise .notPadded s)

/-! ### FINAL -/

/-- The 64 bytes FINAL writes: `BE_wb(low_w(H[i]))` for i < n, then 0x00 up to DIG[63] (44_chaining.md R215). -/
def digestImage (s : State) : List Byte :=
  ((List.range (stateWords s.variant)).flatMap fun i =>
    bytesBE (wordBytes s.variant) (lowWord s.variant (cellValue s.h i)).toNat)
  ++ List.replicate (64 - digestBytes s.variant) 0x00#8

/-- The cells FINAL reads: H[0..<n] (20_memory.md R73). -/
def finalReads (s : State) : List CellId := cellRange .h 0 (stateWords s.variant)

/-- "perform FINAL", once its checks have passed (44_chaining.md R215). -/
def performFinal (s : State) : Result :=
  needWritten (finalReads s) s
    (.next ((s.setDig (s.dig.writeBytes 0 (digestImage s))).setStatus s.status.afterFinal))

/-- `FINAL` (44_chaining.md R215). -/
def execFinal (s : State) : Result := requireValid s (performFinal s)

/-! ### RUN -/

/-- "perform INIT v; perform PAD; perform ITERATE; perform FINAL" (44_chaining.md R216). -/
def performRun (v : Variant) (s : State) : Result :=
  andThen (performIterate (padEffect (initEffect v s))) performFinal

/-- `RUN v` (44_chaining.md R216): every check before any effect. -/
def execRun (v : BitVec 2) (s : State) : Result :=
  match variantOfCode v with
  | some v => if fits v s then performRun v s else raise .bufOverflow s
  | none => raise .badVariant s

end Sys2Proof.Machine
end

