-- ==== Sys2Proof/Machine/Control.lean ====
section
/-! DEFINITION. The control commands NOP, CLRERR and SRESET (45_control.md). -/

namespace Sys2Proof.Machine

/-- `NOP`: skip (45_control.md R240). -/
def execNop (s : State) : Result := .next s

/-- `CLRERR` (45_control.md R241). -/
def execClrerr (s : State) : Result := clearErrors s

/-- The effect of SRESET: the control state at its reset values, every data cell as it was (45_control.md R242). -/
def sresetEffect (s : State) : State :=
  (((((s.setStatus s.status.afterSreset).setVariant .A).setLen 0#64).setNblk 0#64).setBlk 0#64).setLastCmd 0#32

/-- `SRESET` (45_control.md R242). -/
def execSreset (s : State) : Result := .next (sresetEffect s)

end Sys2Proof.Machine
end

