-- ==== Sys2Proof/Machine/Dispatch.lean ====
section
/-! DEFINITION. The meaning of every command, one arm each. The arms hold steps 4 to 9 of 60_exceptions.md R262 and
the command's rule; steps 1 to 3 stand in Machine/Engine.lean. -/

namespace Sys2Proof.Machine

def exec (i : Instr) (s : State) : Host.Outcome State Fault Refusal :=
  match i with
  | .nop => Sys2Proof.Machine.execNop s
  | .rotl32 n => Sys2Proof.Machine.execRotl32 n s
  | .rotr32 n => Sys2Proof.Machine.execRotr32 n s
  | .rotl64 n => Sys2Proof.Machine.execRotl64 n s
  | .rotr64 n => Sys2Proof.Machine.execRotr64 n s
  | .init v => Sys2Proof.Machine.execInit v s
  | .pad => Sys2Proof.Machine.execPad s
  | .expand => Sys2Proof.Machine.execExpand s
  | .wsinit => Sys2Proof.Machine.execWsinit s
  | .round t => Sys2Proof.Machine.execRound t s
  | .chain => Sys2Proof.Machine.execChain s
  | .compress => Sys2Proof.Machine.execCompress s
  | .step => Sys2Proof.Machine.execStep s
  | .iterate => Sys2Proof.Machine.execIterate s
  | .final => Sys2Proof.Machine.execFinal s
  | .run v => Sys2Proof.Machine.execRun v s
  | .clrerr => Sys2Proof.Machine.execClrerr s
  | .sreset => Sys2Proof.Machine.execSreset s

end Sys2Proof.Machine
end

