-- ==== Sys2Proof/Machine/Engine.lean ====
section
/-! DEFINITION. The engine step: taking the pending command word, the checks before the command's own rule, and
clearing BUSY (30_encoding.md R97, 60_exceptions.md R262, R263). -/

namespace Sys2Proof.Machine

/-- The opcodes performed even while STATUS.ERR ≠ 0: 0x1E CLRERR and 0x1F SRESET (60_exceptions.md R262, step 1). -/
def exemptOpcode (op : BitVec 8) : Bool := op == 0x1E#8 || op == 0x1F#8

/-- Step 1 of 60_exceptions.md R262: the word is rejected, because an earlier error stands (R263). -/
def rejected (c : CmdWord) (s : State) : Bool := s.status.err != .none && !exemptOpcode (opField c)

/-- Performing a command word (30_encoding.md R97): rejected without effect, or ILLEGAL_CMD, or the command. -/
def performWord (c : CmdWord) (s : State) : Result :=
  if rejected c s then .next s
  else
    match decode c with
    | .ok i => exec i s
    | .error _ => raise .illegalCmd s

/-- The end of the engine step: BUSY <- 0 (30_encoding.md R97). -/
def finishStep (s : State) : Result := .next (s.setStatus (s.status.withBusy false))

/-- The engine step of a state with BUSY = 1 (30_encoding.md R97): take PENDING, perform it, clear BUSY. -/
def engineStep (s : State) : Result :=
  match s.pending with
  | some c => andThen (performWord c (s.setPending none)) finishStep
  | none => .fault .noPending

end Sys2Proof.Machine
end

