-- ==== Sys2Proof/Machine/HostOps.lean ====
section
/-! DEFINITION. The host operations on the REG, MSG and DIG spaces (20_memory.md R60 to R66, R74, R75; 10_state.md
R23) and the reset event (70_reset_and_hazards.md R290). -/

namespace Sys2Proof.Machine

/-! ### The REG map -/

/-- The register at a REG index; none where the index is unmapped (20_memory.md R61). -/
def regOf (i : BitVec 16) : Option RegId :=
  if i.toNat = 0x000 then some .cmd
  else if i.toNat = 0x001 then some .status
  else if i.toNat = 0x002 then some .variant
  else if i.toNat = 0x003 then some .len
  else if i.toNat = 0x004 then some .nblk
  else if i.toNat = 0x005 then some .blk
  else if i.toNat = 0x006 then some .rotIn
  else if i.toNat = 0x007 then some .rotOut
  else if i.toNat = 0x008 then some .msgcap
  else if i.toNat = 0x009 then some .config
  else if i.toNat < 0x010 then none
  else if h : i.toNat - 0x010 < 8 then some (.h ⟨i.toNat - 0x010, h⟩)
  else if h : i.toNat - 0x018 < 8 then some (.ws ⟨i.toNat - 0x018, h⟩)
  else if h : i.toNat - 0x020 < 80 then some (.w ⟨i.toNat - 0x020, h⟩)
  else none

/-- CONFIG: bit 0 is VARIANT_A_SCHED_ROT, every other bit 0 (10_state.md R38). -/
def configWord (p : Params) : Word := zext64 (flagBit p.schedRot)

/-- The registers whose read is exact at all times (20_memory.md R62). -/
def exactAlways : RegId → Bool
  | .cmd => true
  | .status => true
  | .msgcap => true
  | .config => true
  | .variant => false
  | .len => false
  | .nblk => false
  | .blk => false
  | .rotIn => false
  | .rotOut => false
  | .h _ => false
  | .ws _ => false
  | .w _ => false

/-- The data cells a read of the register reads: those that can be marked unwritten (10_state.md R21). -/
def regReads : RegId → List CellId
  | .cmd => []
  | .status => []
  | .msgcap => []
  | .config => []
  | .variant => []
  | .len => []
  | .nblk => []
  | .blk => []
  | .rotIn => [.rotIn]
  | .rotOut => [.rotOut]
  | .h i => [.h i.val]
  | .ws i => [.ws i.val]
  | .w i => [.w i.val]

/-- The 64-bit value of a register (10_state.md R22). -/
def regValue (r : RegId) (s : State) : Word :=
  match r with
  | .cmd => zext64 s.lastCmd
  | .status => statusWord s.status
  | .variant => zext64 (variantCode s.variant)
  | .len => s.len
  | .nblk => s.nblk
  | .blk => s.blk
  | .rotIn => s.rotIn.val
  | .rotOut => s.rotOut.val
  | .msgcap => BitVec.ofNat 64 s.params.msgCap
  | .config => configWord s.params
  | .h i => cellValue s.h i.val
  | .ws i => cellValue s.ws i.val
  | .w i => cellValue s.w i.val

/-! ### Replies and flags -/

/-- The value of a host read, put before the earlier ones (log 2). -/
def reply (r : Reply) (s : State) : State := s.setHost { s.host with replies := r :: s.host.replies }

/-- One free value has been drawn (log 9). -/
def drawn (s : State) : State := s.setHost { s.host with draws := s.host.draws + 1 }

/-- STATUS.AERR <- 1 (20_memory.md R66). -/
def setAerr (s : State) : State := s.setStatus s.status.withAerr

/-- STATUS.OVR <- 1: a write while BUSY = 1 is dropped (20_memory.md R75). -/
def setOvr (s : State) : State := s.setStatus s.status.withOvr

/-! ### REG -/

/-- `RegRead(i)` (20_memory.md R62). -/
def regRead (i : BitVec 16) (s : State) : Result :=
  match regOf i with
  | none => .next (reply (.word 0#64) (setAerr s))
  | some r =>
    if s.status.busy && !exactAlways r then .next (drawn (reply (.word (Config.busyReadWord s.host.draws)) s))
    else needWritten (regReads r) s (.next (reply (.word (regValue r s)) s))

/-- A CMD write latches `v[31:0]` when BUSY = 0: PENDING, LASTCMD and BUSY (10_state.md R23). -/
def latch (c : CmdWord) (s : State) : State :=
  ((s.setPending (some c)).setLastCmd c).setStatus (s.status.withBusy true)

/-- A host write to a register that accepts it, all 64 bits; a read-only register ignores it, without a flag
(20_memory.md R63). -/
def storeReg (r : RegId) (v : Word) (s : State) : State :=
  match r with
  | .cmd => latch (low32 v) s
  | .status => s
  | .variant => s
  | .len => s.setLen v
  | .nblk => s
  | .blk => s.setBlk v
  | .rotIn => s.setRotIn (DataCell.ofWord v)
  | .rotOut => s
  | .msgcap => s
  | .config => s
  | .h i => s.setH (s.h.set i.val (DataCell.ofWord v) i.isLt)
  | .ws i => s.setWs (s.ws.set i.val (DataCell.ofWord v) i.isLt)
  | .w i => s.setW (s.w.set i.val (DataCell.ofWord v) i.isLt)

/-- The read-only registers (20_memory.md R61, R63). -/
def readOnly : RegId → Bool
  | .status => true
  | .variant => true
  | .nblk => true
  | .rotOut => true
  | .msgcap => true
  | .config => true
  | .cmd => false
  | .len => false
  | .blk => false
  | .rotIn => false
  | .h _ => false
  | .ws _ => false
  | .w _ => false

/-- `RegWrite(i, v)` (20_memory.md R63), with the CMD write of 10_state.md R23. -/
def regWrite (i : BitVec 16) (v : Word) (s : State) : State :=
  match regOf i with
  | none => setAerr s
  | some r =>
    if readOnly r then s
    else if s.status.busy then setOvr s
    else storeReg r v s

/-! ### MSG and DIG -/

/-- A host read of a byte of a buffer with `bound` cells (20_memory.md R64, R65): out of range gives 0 and sets
AERR; while BUSY = 1 any value; otherwise the byte, a model fault if it is unwritten. -/
def byteRead (bound a : Nat) (id : CellId) (m : Memory) (s : State) : Result :=
  if bound ≤ a then .next (reply (.byte 0#8) (setAerr s))
  else if s.status.busy then .next (drawn (reply (.byte (Config.busyReadByte s.host.draws)) s))
  else needWritten [id] s (.next (reply (.byte (m.byteAt a)) s))

/-- `MsgRead(a)` (20_memory.md R64). -/
def msgRead (a : Nat) (s : State) : Result := byteRead s.params.msgCap a (.msg a) s.msg s

/-- `DigRead(a)` (20_memory.md R65). -/
def digRead (a : Nat) (s : State) : Result := byteRead 64 a (.dig a) s.dig s

/-- `MsgWrite(a, b)` (20_memory.md R64). -/
def msgWrite (a : Nat) (b : Byte) (s : State) : State :=
  if s.params.msgCap ≤ a then setAerr s
  else if s.status.busy then setOvr s
  else s.setMsg (s.msg.write a b)

/-- One host operation (20_memory.md R67: one transition). -/
def hostStep (op : HostOp) (s : State) : Result :=
  match op with
  | .regRead i => regRead i s
  | .regWrite i v => .next (regWrite i v s)
  | .msgRead a => msgRead a s
  | .msgWrite a b => .next (msgWrite a b s)
  | .digRead a => digRead a s

/-! ### Reset -/

/-- The reset event (70_reset_and_hazards.md R290, R291): a pending command is discarded. The parameters are
constants of the hardware, and the model's host port is not part of the block (log 21). -/
def resetEvent (s : State) : State := State.resetWith s.params s.host

end Sys2Proof.Machine
end

