-- ==== Sys2Proof/Machine/Agents.lean ====
section
/-! DEFINITION. Which agent moves, and what its move does (10_state.md R20, 20_memory.md R76, 60_exceptions.md
R272, 70_reset_and_hazards.md R302). -/

namespace Sys2Proof.Machine

/-- The engine's move: its step when BUSY = 1; with BUSY = 0 it has no step (10_state.md R20, log 3). -/
def engineMove (s : State) : Result := if s.status.busy then engineStep s else .next s

/-- One event of the history. -/
def performEvent (e : Event) (s : State) : Result :=
  match e with
  | .host op => hostStep op s
  | .engine => engineMove s
  | .reset => .next (resetEvent s)

/-- The events that remain after the first. -/
def withTodo (todo : List Event) (s : State) : State := s.setHost { s.host with todo := todo }

/-- One transition: the next event listed, or with none listed the engine's move (log 4). -/
def transition (s : State) : Result :=
  match s.host.todo with
  | e :: rest => performEvent e (withTodo rest s)
  | [] => engineMove s

/-- The command word of the table as the host's CMD write latches it (10_state.md R23), with the engine to move
next (log 12). -/
def latchNext (c : CmdWord) (s : State) : State := withTodo (.engine :: s.host.todo) (latch c s)

end Sys2Proof.Machine
end

