-- ==== Sys2Proof/Machine/Step.lean ====
section
/-! DEFINITION. The step function of the block and its agents, and the state whose next step performs a given
command word. -/

namespace Sys2Proof.Machine

/-- One transition of the history (20_memory.md R76). -/
def step (s : State) : Host.Outcome State Fault Refusal := transition s

/-- The state whose very next step performs the command word whose low `nbits` bits are those of `w` (log 12). -/
def State.withFetchWord (s : State) (nbits w : Nat) : State := latchNext (tableWord nbits w) s

end Sys2Proof.Machine
end

