-- ==== Sys2Proof/Machine/Program.lean ====
section
/-! DEFINITION. Programs as text stands for them: the assembler syntax of commands, the syntax of host operations,
and the pseudo-instructions (30_encoding.md R101, R102, R103). -/

namespace Sys2Proof.Machine

/-- The operand of an assembler line: none, `#n`, or a variant letter (30_encoding.md R101). -/
inductive AsmOperand where
  | none
  | num (n : Nat)
  | letter (c : Char)
  deriving DecidableEq, Repr

/-- The variant letters (30_encoding.md R101). -/
def variantOfLetter (c : Char) : Option (BitVec 2) :=
  if c = 'A' then some 0#2
  else if c = 'B' then some 1#2
  else if c = 'C' then some 2#2
  else none

/-- The commands without operand, by mnemonic (30_encoding.md R96, R101). -/
def asmNames : List (String × Instr) :=
  [("NOP", .nop), ("PAD", .pad), ("EXPAND", .expand), ("WSINIT", .wsinit), ("CHAIN", .chain),
   ("COMPRESS", .compress), ("STEP", .step), ("ITERATE", .iterate), ("FINAL", .final), ("CLRERR", .clrerr),
   ("SRESET", .sreset)]

/-- A command with an immediate, by mnemonic. -/
def asmImmediate (m : String) (n : BitVec 8) : Option Instr :=
  if m = "ROTL32" then some (.rotl32 n)
  else if m = "ROTR32" then some (.rotr32 n)
  else if m = "ROTL64" then some (.rotl64 n)
  else if m = "ROTR64" then some (.rotr64 n)
  else if m = "ROUND" then some (.round n)
  else none

/-- A command with a variant, by mnemonic. -/
def asmVariant (m : String) (v : BitVec 2) : Option Instr :=
  if m = "INIT" then some (.init v)
  else if m = "RUN" then some (.run v)
  else none

/-- The assembler: it refuses an immediate outside 0..255 and a letter other than A, B or C, and does not check
the ranges that the engine checks (30_encoding.md R101). -/
def assemble (m : String) (o : AsmOperand) : Option Instr :=
  match o with
  | .none => asmNames.lookup m
  | .num n => if n ≤ 255 then asmImmediate m (BitVec.ofNat 8 n) else Option.none
  | .letter c => (variantOfLetter c).bind (asmVariant m)

/-- A line of a host program (30_encoding.md R102, R103). -/
inductive AsmLine where
  | wr (i : BitVec 16) (v : Word)
  | rd (i : BitVec 16)
  | wrmsg (a : Nat) (bytes : List Byte)
  | rddig (a count : Nat)
  | poll
  | word (c : CmdWord)
  | c (i : Instr)
  | sha1
  | sha256
  | sha512
  | rounds (lo hi : Nat)
  | block (v : Variant)
  deriving DecidableEq, Repr

/-- The index of CMD (20_memory.md R61). -/
def cmdIndex : BitVec 16 := 0x000#16

/-- The index of STATUS (20_memory.md R61). -/
def statusIndex : BitVec 16 := 0x001#16

/-- `POLL` in the history where the engine moves before the first read of STATUS (30_encoding.md R102, log 20). -/
def pollEvents : List Event := [.engine, .host (.regRead statusIndex)]

/-- `WR CMD, c` (30_encoding.md R102, `.word`). -/
def wordEvents (c : CmdWord) : List Event := [.host (.regWrite cmdIndex (zext64 c))]

/-- `C <cmd>`: a CMD write, then POLL (30_encoding.md R103). -/
def commandEvents (i : Instr) : List Event := wordEvents (encode i) ++ pollEvents

/-- `WRMSG a, b0 b1 …` (30_encoding.md R102). -/
def wrmsgEvents : Nat → List Byte → List Event
  | _, [] => []
  | a, b :: bs => .host (.msgWrite a b) :: wrmsgEvents (a + 1) bs

/-- `ROUNDS #lo, #hi`: `C ROUND #lo`, …, `C ROUND #hi` (30_encoding.md R103). Each is a line of the assembler, which
refuses an immediate above 255 (R101), so that a bound above 255 is refused. DESIGN CHOICE, log 26: R103 gives no
expansion for `hi < lo`, and the model refuses that line too. -/
def roundsEvents (lo hi : Nat) : Option (List Event) :=
  if lo ≤ hi ∧ hi ≤ 255 then
    some ((List.range (hi + 1 - lo)).flatMap fun k => commandEvents (.round (BitVec.ofNat 8 (lo + k))))
  else none

/-- The events that a line stands for (30_encoding.md R102, R103), none where the line is refused. `BLOCK` is written
for the variant whose R it counts to. -/
def lineEvents : AsmLine → Option (List Event)
  | .wr i v => some [.host (.regWrite i v)]
  | .rd i => some [.host (.regRead i)]
  | .wrmsg a bytes => some (wrmsgEvents a bytes)
  | .rddig a count => some ((List.range count).map fun k => .host (.digRead (a + k)))
  | .poll => some pollEvents
  | .word c => some (wordEvents c)
  | .c i => some (commandEvents i)
  | .sha1 => some (commandEvents (.run (variantCode .A)))
  | .sha256 => some (commandEvents (.run (variantCode .B)))
  | .sha512 => some (commandEvents (.run (variantCode .C)))
  | .rounds lo hi => roundsEvents lo hi
  | .block v => (roundsEvents 0 (Machine.rounds v - 1)).map fun roundLines =>
      commandEvents .expand ++ commandEvents .wsinit ++ roundLines ++ commandEvents .chain

/-- The events of a program, line by line; none where a line is refused. -/
def programEvents : List AsmLine → Option (List Event)
  | [] => some []
  | l :: ls => (lineEvents l).bind fun e => (programEvents ls).map fun es => e ++ es

end Sys2Proof.Machine
end

