-- ==== Sys2Proof/Machine/Reference.lean ====
section
/-! DEFINITION. The document's pure function `digest_variant_v(message)` (00_scope.md R1, 44_chaining.md R217),
written over byte lists and without the machine's state: pad, cut into blocks, expand and compress each block into
the hash state, serialise. It shares with the machine only the word functions, the tables and the padding bytes. -/

namespace Sys2Proof.Machine

/-- The Padded Message (00_scope.md R14, 41_padding.md R140 to R142). -/
def paddedMessage (v : Variant) (m : List Byte) : List Byte := m ++ paddingBytes v m.length

/-- The blocks of `b` bytes of a padded message, in order (00_scope.md R14). -/
def blocksOf (b : Nat) (m : List Byte) : List (List Byte) :=
  (List.range (m.length / b)).map fun k => (m.drop (k * b)).take b

/-- A block as its 16 big-endian words of `wb` bytes (42_schedule.md R160). -/
def wordsOfBlock (w wb : Nat) (block : List Byte) : List (BitVec w) :=
  (List.range 16).map fun j => BitVec.ofNat w (ofBytesBE ((block.drop (j * wb)).take wb))

/-- Word-wise sum of two tuples (44_chaining.md R212). -/
def Work5.add (x y : Work5) : Work5 :=
  { a := x.a + y.a, b := x.b + y.b, c := x.c + y.c, d := x.d + y.d, e := x.e + y.e }

/-- Word-wise sum of two tuples (44_chaining.md R212). -/
def Work8.add {w : Nat} (x y : Work8 w) : Work8 w :=
  { a := x.a + y.a, b := x.b + y.b, c := x.c + y.c, d := x.d + y.d
    e := x.e + y.e, f := x.f + y.f, g := x.g + y.g, h := x.h + y.h }

/-- One block of Variant A compressed into the hash state (43_compression.md R182, R192). -/
def compressA (schedRot : Bool) (hs : Work5) (block : List Byte) : Work5 :=
  let w := schedule (nextA schedRot) 80 (wordsOfBlock 32 4 block)
  hs.add ((List.range 80).foldl (fun x t => roundA t (w.getD t 0#32) x) hs)

/-- One block of Variant B compressed into the hash state (43_compression.md R186, R192). -/
def compressB (hs : Work8 32) (block : List Byte) : Work8 32 :=
  let w := schedule nextB 64 (wordsOfBlock 32 4 block)
  hs.add ((List.range 64).foldl (fun x t => roundB t (w.getD t 0#32) x) hs)

/-- One block of Variant C compressed into the hash state (43_compression.md R189, R192). -/
def compressC (hs : Work8 64) (block : List Byte) : Work8 64 :=
  let w := schedule nextC 80 (wordsOfBlock 64 8 block)
  hs.add ((List.range 80).foldl (fun x t => roundC t (w.getD t 0#64) x) hs)

/-- The document's `digest_variant_v(m)` (44_chaining.md R217). -/
def digestOf (schedRot : Bool) (v : Variant) (m : List Byte) : List Byte :=
  match v with
  | .A =>
    ((blocksOf 64 (paddedMessage .A m)).foldl (compressA schedRot)
      (Work5.ofFn fun i => low32 ((initialHash .A).getD i 0#64))).toList.flatMap fun x => bytesBE 4 x.toNat
  | .B =>
    ((blocksOf 64 (paddedMessage .B m)).foldl compressB
      (Work8.ofFn fun i => low32 ((initialHash .B).getD i 0#64))).toList.flatMap fun x => bytesBE 4 x.toNat
  | .C =>
    ((blocksOf 128 (paddedMessage .C m)).foldl compressC
      (Work8.ofFn fun i => (initialHash .C).getD i 0#64)).toList.flatMap fun x => bytesBE 8 x.toNat

end Sys2Proof.Machine
end

