-- ==== Sys2Proof/Safety.lean ====
section
/-! DEFINITION. What counts as a safe state, and the conditions under which a command's reads meet no unwritten
cell, in the terms the statements use. -/

namespace Sys2Proof.Machine

/-- BUSY = 1 exactly when PENDING is valid (10_state.md R24). -/
abbrev State.PendingIffBusy (s : State) : Prop := s.status.busy = s.pending.isSome

/-- Both buffers are in canonical form and list no cell that does not exist (log 8, 20_memory.md R60). -/
abbrev State.BuffersWf (s : State) : Prop :=
  s.msg.wf ∧ s.msg.below s.params.msgCap ∧ s.dig.wf ∧ s.dig.below 64

/-- PADDED = 1 exactly when there are blocks: NBLK > 0 only after a PAD, and INIT and SRESET set it to 0
(10_state.md R28, R35, 44_chaining.md R213). -/
abbrev State.PaddedIffBlocks (s : State) : Prop := s.status.padded = decide (s.nblk ≠ 0#64)

/-- The blocks lie inside MSG: NBLK·B ≤ MSG_CAP (42_schedule.md R167). -/
abbrev State.BlocksFit (s : State) : Prop := s.nblk.toNat * blockBytes s.variant ≤ s.params.msgCap

/-- After INIT every H cell is written (44_chaining.md R211). -/
abbrev State.ValidHash (s : State) : Prop := s.status.valid = true → ∀ i < 8, cellWritten s.h i = true

/-- PADDED and DONE are 1 only while a variant is selected: SRESET and reset clear all three (10_state.md R25). -/
abbrev State.FlagsNeedValid (s : State) : Prop :=
  (s.status.padded = true → s.status.valid = true) ∧ (s.status.done = true → s.status.valid = true)

/-- After FINAL every DIG cell is written (44_chaining.md R215). -/
abbrev State.DoneDigest (s : State) : Prop := s.status.done = true → ∀ a < 64, (s.dig.read a).isSome = true

/-- The invariant of the block: what holds after reset and what every transition keeps. -/
abbrev State.Inv (s : State) : Prop :=
  s.params.legal = true ∧ s.PendingIffBusy ∧ s.BuffersWf ∧ s.PaddedIffBlocks ∧ s.BlocksFit ∧ s.ValidHash
    ∧ s.FlagsNeedValid ∧ s.DoneDigest

/-- H[0..<n] carry no unwritten mark (10_state.md R21). -/
abbrev State.HashWritten (s : State) : Prop := ∀ i < stateWords s.variant, cellWritten s.h i = true

/-- WS[0..<n] carry no unwritten mark. -/
abbrev State.WorkWritten (s : State) : Prop := ∀ i < stateWords s.variant, cellWritten s.ws i = true

/-- W[0..<R] carry no unwritten mark. -/
abbrev State.ScheduleWritten (s : State) : Prop := ∀ i < rounds s.variant, cellWritten s.w i = true

/-- The bytes of MSG from one address up to another, exclusive, carry no unwritten mark. -/
abbrev State.MsgWritten (s : State) (lo hi : Nat) : Prop :=
  ∀ a < hi, lo ≤ a → (s.msg.read a).isSome = true

/-- Block BLK carries no unwritten mark. -/
abbrev State.BlockWritten (s : State) : Prop := s.MsgWritten (blockStart s) (blockStart s + blockBytes s.variant)

/-- Every data cell that exists carries no unwritten mark (10_state.md R21, 20_memory.md R60). -/
abbrev State.AllWritten (s : State) : Prop :=
  s.rotIn.written = true ∧ s.rotOut.written = true ∧
    (∀ i < 8, cellWritten s.h i = true ∧ cellWritten s.ws i = true) ∧ (∀ i < 80, cellWritten s.w i = true) ∧
    s.MsgWritten 0 s.params.msgCap ∧ ∀ a < 64, (s.dig.read a).isSome = true

/-- u is s but for the cells that s marks unwritten, which hold anything in u, with or without the mark: s stands for
each such u, as the model stands for a hardware on which those cells hold some unknown value (00_scope.md R13). -/
structure State.StandsFor (s u : State) : Prop where
  lastCmd : u.lastCmd = s.lastCmd
  pending : u.pending = s.pending
  status : u.status = s.status
  variant : u.variant = s.variant
  len : u.len = s.len
  nblk : u.nblk = s.nblk
  blk : u.blk = s.blk
  params : u.params = s.params
  host : u.host = s.host
  rotIn : s.rotIn.written = true → u.rotIn = s.rotIn
  rotOut : s.rotOut.written = true → u.rotOut = s.rotOut
  h : ∀ i, cellWritten s.h i = true → cellWritten u.h i = true ∧ cellValue u.h i = cellValue s.h i
  ws : ∀ i, cellWritten s.ws i = true → cellWritten u.ws i = true ∧ cellValue u.ws i = cellValue s.ws i
  w : ∀ i, cellWritten s.w i = true → cellWritten u.w i = true ∧ cellValue u.w i = cellValue s.w i
  msg : ∀ a b, s.msg.read a = some b → u.msg.read a = some b
  dig : ∀ a b, s.dig.read a = some b → u.dig.read a = some b

/-- One transition of a hardware in state s, on which each cell that s marks unwritten holds some unknown value and its
read returns that value (00_scope.md R13), where the model's own step has no successor (60_exceptions.md R266): any values
are allowed, and none is chosen. -/
def HardwareStep (s v : State) : Prop := ∃ u, s.StandsFor u ∧ u.AllWritten ∧ u.Inv ∧ step u = .next v

/-- The message MSG[0..<LEN] (10_state.md R34). -/
def message (s : State) : List Byte := (List.range s.len.toNat).map s.msg.byteAt

/-- The engine is the next agent to move: it is the next event, or no event is listed (logs 1, 4). -/
abbrev State.EngineNext (s : State) : Prop := s.host.todo = [] ∨ s.host.todo.head? = some .engine

/-- The state without its next event. -/
def popEvent (s : State) : State := withTodo s.host.todo.tail s

/-- A step that stops neither with a fault nor with a refusal. -/
def Completes (r : Result) : Prop := ∃ t, r = .next t

/-! ### Encodings, as the opcode table gives them -/

/-- Format N (30_encoding.md R91, R99): of the words with this opcode, one is the command, and every other has a
nonzero reserved field, so that performing it raises ILLEGAL_CMD. -/
abbrev FormatN (op : BitVec 8) (word : CmdWord) (i : Instr) : Prop :=
  ∀ c, opField c = op →
    (decode c = if c = word then .ok i else .error .reservedField) ∧
    ∀ s : State, s.status.err = .none →
      performWord c s = if c = word then exec i s else .next (s.setStatus { s.status with err := .illegalCmd })

/-- Format I (30_encoding.md R92, R94, R99): the words with this opcode that agree with the match word outside IMM8
are the command with IMM8 as its operand; every other has a nonzero reserved field and raises ILLEGAL_CMD. -/
abbrev FormatI (op : BitVec 8) (word : CmdWord) (mk : BitVec 8 → Instr) : Prop :=
  ∀ c, opField c = op →
    (decode c = if c &&& 0xFFFFFF00#32 = word then .ok (mk (c.extractLsb' 0 8)) else .error .reservedField) ∧
    ∀ s : State, s.status.err = .none →
      performWord c s = if c &&& 0xFFFFFF00#32 = word then exec (mk (c.extractLsb' 0 8)) s
        else .next (s.setStatus { s.status with err := .illegalCmd })

/-- Format V (30_encoding.md R93, R95, R99): the same for the words that agree with the match word outside VAR. -/
abbrev FormatV (op : BitVec 8) (word : CmdWord) (mk : BitVec 2 → Instr) : Prop :=
  ∀ c, opField c = op →
    (decode c = if c &&& 0xFFFF3FFF#32 = word then .ok (mk (c.extractLsb' 14 2)) else .error .reservedField) ∧
    ∀ s : State, s.status.err = .none →
      performWord c s = if c &&& 0xFFFF3FFF#32 = word then exec (mk (c.extractLsb' 14 2)) s
        else .next (s.setStatus { s.status with err := .illegalCmd })

/-! ### The table of checks -/

/-- The opcodes of 60_exceptions.md R262, step 5. -/
def needsValidOps : List Nat := [0x11, 0x12, 0x13, 0x14, 0x15, 0x16, 0x17, 0x18, 0x19]

/-- The opcodes of the opcode table (30_encoding.md R96), by format. -/
def opsN : List Nat := [0x00, 0x11, 0x12, 0x13, 0x15, 0x16, 0x17, 0x18, 0x19, 0x1E, 0x1F]

/-- The opcodes of format I. -/
def opsI : List Nat := [0x01, 0x02, 0x03, 0x04, 0x14]

/-- The opcodes of format V. -/
def opsV : List Nat := [0x10, 0x1A]

/-- Steps 2 to 9 of 60_exceptions.md R262 for a word, as conditions that fail it and the code each raises, in the
order of the table. It is read off the word's bits and the state, and shares no check with the commands' meanings
but the padded length. -/
def checkTable (c : CmdWord) (s : State) : List (Prop × ErrCode) :=
  let op := (c.extractLsb' 24 8).toNat
  let imm := (c.extractLsb' 0 8).toNat
  let var := c.extractLsb' 14 2
  [ (op ∉ opsN ∧ op ∉ opsI ∧ op ∉ opsV, .illegalCmd),
    (op ∈ opsN ∧ c.extractLsb' 0 24 ≠ 0#24, .illegalCmd),
    (op ∈ opsI ∧ c.extractLsb' 8 16 ≠ 0#16, .illegalCmd),
    (op ∈ opsV ∧ (c.extractLsb' 16 8 ≠ 0#8 ∨ c.extractLsb' 0 14 ≠ 0#14), .illegalCmd),
    (op ∈ opsV ∧ var = 3#2, .badVariant),
    (op ∈ needsValidOps ∧ s.status.valid = false, .notInit),
    ((op = 0x01 ∨ op = 0x02) ∧ ¬(1 ≤ imm ∧ imm ≤ 31), .badShift),
    ((op = 0x03 ∨ op = 0x04) ∧ ¬(1 ≤ imm ∧ imm ≤ 63), .badShift),
    (op = 0x14 ∧ rounds s.variant ≤ imm, .badRound),
    (op = 0x18 ∧ s.status.padded = false, .notPadded),
    ((op = 0x12 ∨ op = 0x17) ∧ s.nblk.toNat ≤ s.blk.toNat, .noBlock),
    (op = 0x11 ∧ s.params.msgCap < padLen s.variant s.len.toNat, .bufOverflow),
    (op = 0x1A ∧ ∃ v, variantOfCode var = some v ∧ s.params.msgCap < padLen v s.len.toNat, .bufOverflow) ]

/-- The first check of a list that fails raises the code. -/
def FirstFailing : List (Prop × ErrCode) → ErrCode → Prop
  | [], _ => False
  | (p, e) :: rest, code => (p ∧ code = e) ∨ (¬p ∧ FirstFailing rest code)

/-- No check of a list fails. -/
def NoneFails (checks : List (Prop × ErrCode)) : Prop := ∀ x ∈ checks, ¬x.1

/-! ### Tables -/

/-- The first 80 primes. -/
def primeList : List Nat :=
  [2, 3, 5, 7, 11, 13, 17, 19, 23, 29, 31, 37, 41, 43, 47, 53, 59, 61, 67, 71] ++
  [73, 79, 83, 89, 97, 101, 103, 107, 109, 113, 127, 131, 137, 139, 149, 151, 157, 163, 167, 173] ++
  [179, 181, 191, 193, 197, 199, 211, 223, 227, 229, 233, 239, 241, 251, 257, 263, 269, 271, 277, 281] ++
  [283, 293, 307, 311, 313, 317, 331, 337, 347, 349, 353, 359, 367, 373, 379, 383, 389, 397, 401, 409]

/-- f is the first `bits` bits of the fractional part of the k-th root of p: with a whole part a below 10, a + f/2^bits
is the root cut off after `bits` bits (43_compression.md R184, R188, 44_chaining.md R210). -/
def IsFractionOfRoot (k bits p f : Nat) : Prop :=
  f < 2 ^ bits ∧ ∃ a < 10, (a * 2 ^ bits + f) ^ k ≤ p * 2 ^ (k * bits) ∧
    p * 2 ^ (k * bits) < (a * 2 ^ bits + f + 1) ^ k

end Sys2Proof.Machine
end

