-- ==== Sys2Proof/Certificates/Slice0/Obligations.lean ====
section
/-! DEFINITION. The statements about the block. An effect is written as the state it leaves, one setter for each
field that changes, so that it says as well that every other field, and with MSG and DIG every byte, stays as it was.
An error is written as the change of STATUS.ERR alone. -/

open Sys2Proof Sys2Proof.Machine

/-! ## Encoding -/

/-- Decoding the encoding of a command gives it back, with every value of every operand (30_encoding.md R91, R92,
R93, R97, R101). -/
def Obligations.DecodeOfEncodeIsTheCommand : Prop := ∀ i : Instr, decode (encode i) = .ok i

/-- A word that decodes is the encoding of what it decodes to, so that no two words are one command
(30_encoding.md R97). -/
def Obligations.EncodeOfDecodeIsTheWord : Prop := ∀ (c : CmdWord) (i : Instr), decode c = .ok i → encode i = c

/-- Command words written out from the encodings of the command rules decode to their commands. -/
def Obligations.SpecWordsDecode : Prop :=
  decode 0x00000000#32 = .ok .nop ∧ decode 0x01000001#32 = .ok (.rotl32 1#8) ∧
  decode 0x04000001#32 = .ok (.rotr64 1#8) ∧ decode 0x10008000#32 = .ok (.init 2#2) ∧
  decode 0x11000000#32 = .ok .pad ∧ decode 0x14000050#32 = .ok (.round 80#8) ∧
  decode 0x1A004000#32 = .ok (.run 1#2) ∧ decode 0x1F000000#32 = .ok .sreset ∧
  decode 0x11000001#32 = .error .reservedField ∧ decode 0x0100C001#32 = .error .reservedField

/-! ## The engine step -/

/-- A step runs the decoded command (30_encoding.md R97). When the engine is next to move, BUSY = 1, the pending
word decodes to i, and no earlier error stands or i is CLRERR or SRESET, a step is exec of i on the state whose
PENDING is invalidated, and then BUSY <- 0. -/
def Obligations.StepRunsTheDecodedCommand : Prop :=
  ∀ (s : State) (c : CmdWord) (i : Instr), s.EngineNext → s.status.busy = true → s.pending = some c →
    decode c = .ok i → (s.status.err = .none ∨ i = .clrerr ∨ i = .sreset) →
    step s = andThen (exec i ((popEvent s).setPending none)) fun t =>
      .next (t.setStatus { t.status with busy := false })

/-- A reserved opcode or a nonzero reserved field raises ILLEGAL_CMD and changes nothing else but the end of the
engine step (30_encoding.md R98, R99), also where an earlier error stands and the opcode is that of CLRERR or SRESET
(60_exceptions.md R264). -/
def Obligations.StepOfIllegalWord : Prop :=
  ∀ (s : State) (c : CmdWord) (e : DecodeError), s.EngineNext → s.status.busy = true → s.pending = some c →
    decode c = .error e → (s.status.err = .none ∨ opField c = 0x1E#8 ∨ opField c = 0x1F#8) →
    step s = .next (((popEvent s).setPending none).setStatus { s.status with err := .illegalCmd, busy := false })

/-- While STATUS.ERR ≠ 0 a command other than CLRERR or SRESET is rejected and changes nothing, and the CMD write
that latches it still sets LASTCMD and BUSY (60_exceptions.md R263). -/
def Obligations.RejectedWhileErrorStands : Prop :=
  (∀ (s : State) (c : CmdWord), s.EngineNext → s.status.busy = true → s.pending = some c → s.status.err ≠ .none →
    opField c ≠ 0x1E#8 → opField c ≠ 0x1F#8 →
    step s = .next (((popEvent s).setPending none).setStatus { s.status with busy := false })) ∧
  ∀ (s : State) (v : Word), s.status.err ≠ .none → s.status.busy = false →
    hostStep (.regWrite 0x000#16 v) s =
      .next (((s.setPending (some (v.setWidth 32))).setLastCmd (v.setWidth 32)).setStatus { s.status with busy := true })

/-- The reserved opcodes, and only they, select no row (30_encoding.md R96, R98). -/
def Obligations.ReservedOpcodesAreIllegal : Prop :=
  ∀ c : CmdWord, decode c = .error .reservedOpcode ↔
    (opField c).toNat ∉ [0x00, 0x01, 0x02, 0x03, 0x04, 0x10, 0x11, 0x12, 0x13, 0x14, 0x15, 0x16, 0x17, 0x18, 0x19,
      0x1A, 0x1E, 0x1F]

/-- The checks of a command word run in the order of the table of 60_exceptions.md R262, and the first that fails
raises its code; where none fails, the word is a command that raises nothing. -/
def Obligations.ChecksRunInTableOrder : Prop :=
  ∀ (s : State) (c : CmdWord),
    (s.status.err ≠ .none ∧ opField c ≠ 0x1E#8 ∧ opField c ≠ 0x1F#8 → performWord c s = .next s) ∧
    (s.status.err = .none ∨ opField c = 0x1E#8 ∨ opField c = 0x1F#8 →
      (∀ code, FirstFailing (checkTable c s) code →
        performWord c s = .next (s.setStatus { s.status with err := code })) ∧
      (NoneFails (checkTable c s) →
        ∀ t, performWord c s = .next t → t.status.err = s.status.err ∨ t.status.err = .none))

/-- An error is precise: a command that ends with a new error code has changed nothing else
(60_exceptions.md R261). -/
def Obligations.ErrorsArePrecise : Prop :=
  ∀ (i : Instr) (s t : State), exec i s = .next t → t.status.err ≠ .none → t.status.err ≠ s.status.err →
    t = s.setStatus { s.status with err := t.status.err }

/-- A command faults only on a cell whose unwritten mark is set, and an illegal word never faults
(60_exceptions.md R266). -/
def Obligations.OnlyUnwrittenCellsFault : Prop :=
  (∀ (i : Instr) (s : State) (f : Fault), exec i s = .fault f →
    ∃ c, f = .unwritten c ∧ s.isWritten c = false) ∧
  ∀ (c : CmdWord) (s : State) (e : DecodeError), decode c = .error e → ∃ t, performWord c s = .next t

/-- No transition is refused: every command has its meaning. -/
def Obligations.NothingIsRefused : Prop := ∀ (s : State) (r : Refusal), step s ≠ .refused r

/-- With BUSY = 0 and no event listed the engine has no step and all state survives (60_exceptions.md R272; that
waiting is a step that changes nothing is the model's choice, log 3). -/
def Obligations.IdleBlockKeepsItsState : Prop :=
  ∀ s : State, s.status.busy = false → s.host.todo = [] → step s = .next s

/-- The engine step, when it comes, leaves BUSY = 0 and no pending command (70_reset_and_hazards.md R302; that it
comes next where no event is listed is log 4). -/
def Obligations.EngineStepClearsBusy : Prop :=
  ∀ s t : State, s.EngineNext → s.PendingIffBusy → step s = .next t →
    t.status.busy = false ∧ t.pending = none

/-! ## Invariants -/

/-- Every transition of the history keeps the invariant. -/
def Obligations.StepKeepsTheInvariant : Prop := ∀ s t : State, s.Inv → step s = .next t → t.Inv

/-- The state after reset meets the invariant, for every legal parameters and every host port. -/
def Obligations.ResetMeetsTheInvariant : Prop :=
  ∀ (p : Params) (port : HostPort), p.legal = true → (State.resetWith p port).Inv

/-- In a state that meets the invariant no step stops but on an unwritten cell: PENDING is never missing
(10_state.md R24). -/
def Obligations.InvariantStatesStopOnlyOnUnwrittenCells : Prop :=
  ∀ (s : State) (f : Fault), s.Inv → step s = .fault f → ∃ c, f = .unwritten c ∧ s.isWritten c = false

/-- Unwritten marks come back with the reset event only: any write clears them, and no other transition sets them
(10_state.md R21). -/
def Obligations.OnlyResetSetsUnwrittenMarks : Prop :=
  ∀ (s t : State) (c : CellId), step s = .next t → s.host.todo.head? ≠ some .reset → s.isWritten c = true →
    t.isWritten c = true

/-- MSGCAP and CONFIG are constant: no transition changes the parameters, and a read of the two registers gives them
at all times (10_state.md R37, R38). -/
def Obligations.ParametersAreConstant : Prop :=
  (∀ s t : State, step s = .next t → t.params = s.params) ∧
  ∀ s : State,
    hostStep (.regRead 0x008#16) s = .next (reply (.word (BitVec.ofNat 64 s.params.msgCap)) s) ∧
    hostStep (.regRead 0x009#16) s = .next (reply (.word (if s.params.schedRot then 1#64 else 0#64)) s)

/-- What no command changes: PENDING, BUSY, ROT_IN, the parameters and the host port; and but for CLRERR and SRESET,
also OVR, AERR, LEN and LASTCMD (20_memory.md R73). -/
def Obligations.CommandsFrame : Prop :=
  ∀ (i : Instr) (s t : State), exec i s = .next t →
    t.pending = s.pending ∧ t.status.busy = s.status.busy ∧ t.rotIn = s.rotIn ∧ t.params = s.params ∧
    t.host = s.host ∧
    (i ≠ .clrerr → i ≠ .sreset →
      t.status.ovr = s.status.ovr ∧ t.status.aerr = s.status.aerr ∧ t.len = s.len ∧ t.lastCmd = s.lastCmd)

/-- Commands never write MSG[0..<LEN] or MSG at or beyond padlen: only PAD and RUN write MSG at all
(20_memory.md R73). -/
def Obligations.CommandsKeepTheMessage : Prop :=
  ∀ (i : Instr) (s t : State), exec i s = .next t →
    (i ≠ .pad → (∀ v, i ≠ .run v) → t.msg = s.msg) ∧
    ∀ a, a < s.len.toNat ∨ padLen t.variant s.len.toNat ≤ a → t.msg.read a = s.msg.read a

/-! ## Rotations -/

/-- The laws of the rotation functions for 0 < n < w: they invert each other and agree at n and w - n
(40_rotate.md R122). -/
def Obligations.RotationLaws : Prop :=
  (∀ (x : BitVec 32) (n : Nat), 0 < n → n < 32 →
    rotr x n = rotl x (32 - n) ∧ rotl (rotr x n) n = x ∧ rotl 0#32 n = 0#32 ∧
    rotl (BitVec.allOnes 32) n = BitVec.allOnes 32) ∧
  (∀ (x : BitVec 64) (n : Nat), 0 < n → n < 64 →
    rotr x n = rotl x (64 - n) ∧ rotl (rotr x n) n = x ∧ rotl 0#64 n = 0#64 ∧
    rotl (BitVec.allOnes 64) n = BitVec.allOnes 64)

/-- The rotations as the closed forms of 40_rotate.md R120 and R121, and bit by bit: bit i of rotl_w(x, n) is bit
(i - n) mod w of x, and bit i of rotr_w(x, n) is bit (i + n) mod w. -/
def Obligations.RotationsMoveBitsRoundTheWord : Prop :=
  ∀ (w n : Nat) (x : BitVec w), 0 < n → n < w →
    (rotl x n).toNat = ((x.toNat <<< n) ||| (x.toNat >>> (w - n))) % 2 ^ w ∧
    (rotr x n).toNat = ((x.toNat >>> n) ||| (x.toNat <<< (w - n))) % 2 ^ w ∧
    ∀ i < w, (rotl x n).getLsbD i = x.getLsbD ((i + w - n) % w) ∧ (rotr x n).getLsbD i = x.getLsbD ((i + n) % w)

/-- ROTL32 (40_rotate.md R123): BAD_SHIFT outside 1..31, a model fault where ROT_IN is unwritten, and otherwise
ROT_OUT, with bits 63:32 zero. -/
def Obligations.Rotl32Meaning : Prop :=
  FormatI 0x01#8 0x01000000#32 .rotl32 ∧ ∀ (n : BitVec 8) (s : State),
    (¬(1 ≤ n.toNat ∧ n.toNat ≤ 31) → exec (.rotl32 n) s = .next (s.setStatus { s.status with err := .badShift })) ∧
    (1 ≤ n.toNat ∧ n.toNat ≤ 31 → s.rotIn.written = false → exec (.rotl32 n) s = .fault (.unwritten .rotIn)) ∧
    (1 ≤ n.toNat ∧ n.toNat ≤ 31 → s.rotIn.written = true →
      ∃ r : Word, exec (.rotl32 n) s = .next (s.setRotOut { val := r, written := true }) ∧
        (∀ i < 32, r.getLsbD i = s.rotIn.val.getLsbD ((i + 32 - n.toNat) % 32)) ∧
        ∀ i, 32 ≤ i → r.getLsbD i = false)

/-- ROTR32 (40_rotate.md R124). -/
def Obligations.Rotr32Meaning : Prop :=
  FormatI 0x02#8 0x02000000#32 .rotr32 ∧ ∀ (n : BitVec 8) (s : State),
    (¬(1 ≤ n.toNat ∧ n.toNat ≤ 31) → exec (.rotr32 n) s = .next (s.setStatus { s.status with err := .badShift })) ∧
    (1 ≤ n.toNat ∧ n.toNat ≤ 31 → s.rotIn.written = false → exec (.rotr32 n) s = .fault (.unwritten .rotIn)) ∧
    (1 ≤ n.toNat ∧ n.toNat ≤ 31 → s.rotIn.written = true →
      ∃ r : Word, exec (.rotr32 n) s = .next (s.setRotOut { val := r, written := true }) ∧
        (∀ i < 32, r.getLsbD i = s.rotIn.val.getLsbD ((i + n.toNat) % 32)) ∧
        ∀ i, 32 ≤ i → r.getLsbD i = false)

/-- ROTL64 (40_rotate.md R125). -/
def Obligations.Rotl64Meaning : Prop :=
  FormatI 0x03#8 0x03000000#32 .rotl64 ∧ ∀ (n : BitVec 8) (s : State),
    (¬(1 ≤ n.toNat ∧ n.toNat ≤ 63) → exec (.rotl64 n) s = .next (s.setStatus { s.status with err := .badShift })) ∧
    (1 ≤ n.toNat ∧ n.toNat ≤ 63 → s.rotIn.written = false → exec (.rotl64 n) s = .fault (.unwritten .rotIn)) ∧
    (1 ≤ n.toNat ∧ n.toNat ≤ 63 → s.rotIn.written = true →
      ∃ r : Word, exec (.rotl64 n) s = .next (s.setRotOut { val := r, written := true }) ∧
        ∀ i < 64, r.getLsbD i = s.rotIn.val.getLsbD ((i + 64 - n.toNat) % 64))

/-- ROTR64 (40_rotate.md R126). -/
def Obligations.Rotr64Meaning : Prop :=
  FormatI 0x04#8 0x04000000#32 .rotr64 ∧ ∀ (n : BitVec 8) (s : State),
    (¬(1 ≤ n.toNat ∧ n.toNat ≤ 63) → exec (.rotr64 n) s = .next (s.setStatus { s.status with err := .badShift })) ∧
    (1 ≤ n.toNat ∧ n.toNat ≤ 63 → s.rotIn.written = false → exec (.rotr64 n) s = .fault (.unwritten .rotIn)) ∧
    (1 ≤ n.toNat ∧ n.toNat ≤ 63 → s.rotIn.written = true →
      ∃ r : Word, exec (.rotr64 n) s = .next (s.setRotOut { val := r, written := true }) ∧
        ∀ i < 64, r.getLsbD i = s.rotIn.val.getLsbD ((i + n.toNat) % 64))

/-! ## Padding -/

/-- PAD (41_padding.md R143): NOT_INIT, BUF_OVERFLOW, or 0x80 at LEN, zero bytes, and the big-endian length field in
the last L bytes (R142); MSG outside LEN .. padlen-1 is not touched; NBLK = padlen/B, BLK = 0, PADDED = 1,
DONE = 0. -/
def Obligations.PadMeaning : Prop :=
  FormatN 0x11#8 0x11000000#32 .pad ∧ ∀ s : State,
    let len := s.len.toNat
    let z := zeroCount s.variant len
    let p := padLen s.variant len
    (s.status.valid = false → exec .pad s = .next (s.setStatus { s.status with err := .notInit })) ∧
    (s.status.valid = true → s.params.msgCap < p →
      exec .pad s = .next (s.setStatus { s.status with err := .bufOverflow })) ∧
    (s.status.valid = true → p ≤ s.params.msgCap → ∃ t, exec .pad s = .next t ∧
      t = (((s.setMsg t.msg).setNblk t.nblk).setBlk 0#64).setStatus { s.status with padded := true, done := false } ∧
      t.nblk.toNat = p / blockBytes s.variant ∧
      t.msg.read len = some 0x80#8 ∧
      (∀ k < z, t.msg.read (len + 1 + k) = some 0x00#8) ∧
      (∀ k < lengthBytes s.variant, t.msg.read (len + 1 + z + k) =
        some (BitVec.ofNat 8 (8 * len % 2 ^ 64 / 2 ^ (8 * (lengthBytes s.variant - 1 - k))))) ∧
      ∀ a, a < len ∨ p ≤ a → t.msg.read a = s.msg.read a)

/-- The padding function (41_padding.md R140): z is the least number of zero bytes that makes the total a multiple of
B, and padlen is that multiple. -/
def Obligations.PaddedLengthIsTheLeastMultiple : Prop :=
  ∀ (v : Variant) (len : Nat),
    zeroCount v len = (blockBytes v - (len + 1 + lengthBytes v) % blockBytes v) % blockBytes v ∧
    zeroCount v len < blockBytes v ∧
    padLen v len = len + 1 + zeroCount v len + lengthBytes v ∧
    padLen v len % blockBytes v = 0 ∧
    ∀ z, (len + 1 + z + lengthBytes v) % blockBytes v = 0 → zeroCount v len ≤ z

/-- After a successful PAD of a block with legal parameters (41_padding.md R144): NBLK·B = padlen(LEN), a multiple of
B; NBLK = floor((LEN + L)/B) + 1, which is 1 exactly when LEN ≤ B - L - 1; LEN < padlen ≤ LEN + B + L; the last L
bytes of block NBLK - 1 are BE_L(8·LEN), without reduction. -/
def Obligations.InvariantsAfterPad : Prop :=
  ∀ s t : State, s.params.legal = true → s.status.valid = true → padLen s.variant s.len.toNat ≤ s.params.msgCap →
    exec .pad s = .next t →
    padLen s.variant s.len.toNat % blockBytes s.variant = 0 ∧
    t.nblk.toNat * blockBytes s.variant = padLen s.variant s.len.toNat ∧
    t.nblk.toNat = (s.len.toNat + lengthBytes s.variant) / blockBytes s.variant + 1 ∧
    (t.nblk.toNat = 1 ↔ s.len.toNat ≤ blockBytes s.variant - lengthBytes s.variant - 1) ∧
    s.len.toNat < padLen s.variant s.len.toNat ∧
    padLen s.variant s.len.toNat ≤ s.len.toNat + blockBytes s.variant + lengthBytes s.variant ∧
    t.msg.readBE (t.nblk.toNat * blockBytes s.variant - lengthBytes s.variant) (lengthBytes s.variant)
      = 8 * s.len.toNat

/-! ## Schedule expansion -/

/-- EXPAND (42_schedule.md R166): NOT_INIT, NO_BLOCK, a model fault where a byte of block BLK is unwritten, and
otherwise W[0..15] are the big-endian words of the block (R160), W[16..<R] follow the variant's recurrence (R161,
R163, R165), each zero-extended, and W[R..79] stay. -/
def Obligations.ExpandMeaning : Prop :=
  FormatN 0x12#8 0x12000000#32 .expand ∧ ∀ s : State,
    (s.status.valid = false → exec .expand s = .next (s.setStatus { s.status with err := .notInit })) ∧
    (s.status.valid = true → s.nblk.toNat ≤ s.blk.toNat →
      exec .expand s = .next (s.setStatus { s.status with err := .noBlock })) ∧
    (s.status.valid = true → s.blk.toNat < s.nblk.toNat → ¬s.BlockWritten →
      ∃ a, s.msg.read a = none ∧ exec .expand s = .fault (.unwritten (.msg a))) ∧
    (s.status.valid = true → s.blk.toNat < s.nblk.toNat → s.BlockWritten →
      ∃ t, exec .expand s = .next t ∧ t = s.setW t.w ∧
        (∀ i < rounds s.variant, cellWritten t.w i = true) ∧
        (∀ j < 16, (cellValue t.w j).toNat =
          s.msg.readBE (s.blk.toNat * blockBytes s.variant + j * wordBytes s.variant) (wordBytes s.variant)) ∧
        (∀ i, 16 ≤ i → i < rounds s.variant → cellValue t.w i =
          match s.variant with
          | .A =>
            let x := low32 (cellValue t.w (i - 3)) ^^^ low32 (cellValue t.w (i - 8))
              ^^^ low32 (cellValue t.w (i - 14)) ^^^ low32 (cellValue t.w (i - 16))
            zext64 (if s.params.schedRot then rotl x 1 else x)
          | .B =>
            zext64 (low32 (cellValue t.w (i - 16)) + smallSigma0B (low32 (cellValue t.w (i - 15)))
              + low32 (cellValue t.w (i - 7)) + smallSigma1B (low32 (cellValue t.w (i - 2))))
          | .C =>
            cellValue t.w (i - 16) + smallSigma0C (cellValue t.w (i - 15)) + cellValue t.w (i - 7)
              + smallSigma1C (cellValue t.w (i - 2))) ∧
        ∀ i, rounds s.variant ≤ i → cellValue t.w i = cellValue s.w i ∧ cellWritten t.w i = cellWritten s.w i)

/-! ## Compression -/

/-- WSINIT (43_compression.md R190): NOT_INIT, a model fault where some H[i] with i < n is unwritten, and otherwise
WS[i] = zext_64(low_w(H[i])) for i < n, and WS[n..7] stay. -/
def Obligations.WsinitMeaning : Prop :=
  FormatN 0x13#8 0x13000000#32 .wsinit ∧ ∀ s : State,
    (s.status.valid = false → exec .wsinit s = .next (s.setStatus { s.status with err := .notInit })) ∧
    (s.status.valid = true → ¬s.HashWritten →
      ∃ i < stateWords s.variant, cellWritten s.h i = false ∧ exec .wsinit s = .fault (.unwritten (.h i))) ∧
    (s.status.valid = true → s.HashWritten → ∃ t, exec .wsinit s = .next t ∧ t = s.setWs t.ws ∧
      (∀ i < stateWords s.variant, cellWritten t.ws i = true ∧
        (cellValue t.ws i).toNat = (cellValue s.h i).toNat % 2 ^ wordBits s.variant) ∧
      ∀ i, stateWords s.variant ≤ i →
        cellValue t.ws i = cellValue s.ws i ∧ cellWritten t.ws i = cellWritten s.ws i)

/-- The functions that the recurrences and the round functions are made of (42_schedule.md R162, R164,
43_compression.md R181, R185, R187). -/
def Obligations.WordFunctionsAreTheRules : Prop :=
  (∀ x : BitVec 32,
    smallSigma0B x = rotr x 7 ^^^ rotr x 18 ^^^ (x >>> 3) ∧ smallSigma1B x = rotr x 17 ^^^ rotr x 19 ^^^ (x >>> 10) ∧
    bigSigma0B x = rotr x 2 ^^^ rotr x 13 ^^^ rotr x 22 ∧ bigSigma1B x = rotr x 6 ^^^ rotr x 11 ^^^ rotr x 25) ∧
  (∀ x : BitVec 64,
    smallSigma0C x = rotr x 1 ^^^ rotr x 8 ^^^ (x >>> 7) ∧ smallSigma1C x = rotr x 19 ^^^ rotr x 61 ^^^ (x >>> 6) ∧
    bigSigma0C x = rotr x 28 ^^^ rotr x 34 ^^^ rotr x 39 ∧ bigSigma1C x = rotr x 14 ^^^ rotr x 18 ^^^ rotr x 41) ∧
  (∀ (w i : Nat) (x y z : BitVec w), i < w →
    (ch x y z).getLsbD i = (if x.getLsbD i then y.getLsbD i else z.getLsbD i) ∧
    (maj x y z).getLsbD i = decide (2 ≤ (x.getLsbD i).toNat + (y.getLsbD i).toNat + (z.getLsbD i).toNat)) ∧
  ∀ (t : Nat) (x y z : BitVec 32), mixA t x y z =
    if t < 20 then ch x y z else if 40 ≤ t ∧ t < 60 then maj x y z else x ^^^ y ^^^ z

/-- The tables are what the rules say of them (43_compression.md R180, R184, R188, 44_chaining.md R210): K_B(t) and
K_C(t) are the first 32 and 64 bits of the fractional part of the cube root of the (t+1)-th prime, IV_B[i] and
IV_C[i] those of the square root of the (i+1)-th prime; K_A has one value for each band of 20 rounds; IV_A is written
out. -/
def Obligations.ConstantsAreRootsOfPrimes : Prop :=
  primeList.length = 80 ∧ (∀ i < 80, (primeList.getD i 0).Prime ∧ ∀ p, p.Prime → p < primeList.getD i 0 →
    ∃ j < i, primeList.getD j 0 = p) ∧
  (∀ t < 64, IsFractionOfRoot 3 32 (primeList.getD t 0) (constB t).toNat) ∧
  (∀ t < 80, IsFractionOfRoot 3 64 (primeList.getD t 0) (constC t).toNat) ∧
  (∀ i < 8, IsFractionOfRoot 2 32 (primeList.getD i 0) ((initialHash .B).getD i 0#64).toNat) ∧
  (∀ i < 8, IsFractionOfRoot 2 64 (primeList.getD i 0) ((initialHash .C).getD i 0#64).toNat) ∧
  (∀ t < 80, constA t = [0x5A827999#32, 0x6ED9EBA1#32, 0x8F1BBCDC#32, 0xCA62C1D6#32].getD (t / 20) 0#32) ∧
  initialHash .A = [0x67452301#64, 0xEFCDAB89#64, 0x98BADCFE#64, 0x10325476#64, 0xC3D2E1F0#64]

/-- ROUND #t (43_compression.md R191): NOT_INIT before BAD_ROUND (t ≥ R), a model fault where W[t] or a WS cell it
reads is unwritten, and otherwise one application of the round function of the variant: R182 for Variant A, R186 for
B, R189 for C; WS[n..7] stay. -/
def Obligations.RoundMeaning : Prop :=
  FormatI 0x14#8 0x14000000#32 .round ∧ ∀ (t : BitVec 8) (s : State),
    let k := t.toNat
    (s.status.valid = false → exec (.round t) s = .next (s.setStatus { s.status with err := .notInit })) ∧
    (s.status.valid = true → rounds s.variant ≤ k →
      exec (.round t) s = .next (s.setStatus { s.status with err := .badRound })) ∧
    (s.status.valid = true → k < rounds s.variant → ¬(s.WorkWritten ∧ cellWritten s.w k = true) →
      ∃ c, (c = .w k ∨ ∃ i < stateWords s.variant, c = .ws i) ∧ s.isWritten c = false ∧
        exec (.round t) s = .fault (.unwritten c)) ∧
    (s.status.valid = true → k < rounds s.variant → s.WorkWritten → cellWritten s.w k = true →
      ∃ u, exec (.round t) s = .next u ∧ u = s.setWs u.ws ∧
        (∀ i < stateWords s.variant, cellWritten u.ws i = true) ∧
        (∀ i, stateWords s.variant ≤ i →
          cellValue u.ws i = cellValue s.ws i ∧ cellWritten u.ws i = cellWritten s.ws i) ∧
        match s.variant with
        | .A =>
          let x := fun i => low32 (cellValue s.ws i)
          (List.range 5).map (cellValue u.ws) =
            [zext64 (rotl (x 0) 5 + mixA k (x 1) (x 2) (x 3) + x 4 + constA k + low32 (cellValue s.w k)),
              zext64 (x 0), zext64 (rotl (x 1) 30), zext64 (x 2), zext64 (x 3)]
        | .B =>
          let x := fun i => low32 (cellValue s.ws i)
          let t1 := x 7 + bigSigma1B (x 4) + ch (x 4) (x 5) (x 6) + constB k + low32 (cellValue s.w k)
          let t2 := bigSigma0B (x 0) + maj (x 0) (x 1) (x 2)
          (List.range 8).map (cellValue u.ws) =
            [zext64 (t1 + t2), zext64 (x 0), zext64 (x 1), zext64 (x 2), zext64 (x 3 + t1), zext64 (x 4),
              zext64 (x 5), zext64 (x 6)]
        | .C =>
          let x := cellValue s.ws
          let t1 := x 7 + bigSigma1C (x 4) + ch (x 4) (x 5) (x 6) + constC k + cellValue s.w k
          let t2 := bigSigma0C (x 0) + maj (x 0) (x 1) (x 2)
          (List.range 8).map (cellValue u.ws) = [t1 + t2, x 0, x 1, x 2, x 3 + t1, x 4, x 5, x 6])

/-- COMPRESS (43_compression.md R192): NOT_INIT, and otherwise WSINIT, ROUND #0, …, ROUND #R-1, CHAIN in one step,
with whatever fault one of them meets; where H[0..<n] and W[0..<R] are written it completes, and only WS and H
change. -/
def Obligations.CompressMeaning : Prop :=
  FormatN 0x16#8 0x16000000#32 .compress ∧ ∀ s : State,
    (s.status.valid = false → exec .compress s = .next (s.setStatus { s.status with err := .notInit })) ∧
    (s.status.valid = true →
      exec .compress s = andThen (((List.range (rounds s.variant)).map fun t => exec (.round (BitVec.ofNat 8 t))).foldl
        andThen (exec .wsinit s)) (exec .chain)) ∧
    (s.status.valid = true → s.HashWritten → s.ScheduleWritten →
      ∃ t, exec .compress s = .next t ∧ t = (s.setWs t.ws).setH t.h ∧
        ∀ i < stateWords s.variant, cellWritten t.ws i = true ∧ cellWritten t.h i = true ∧
          cellValue t.h i = addWords s.variant (cellValue s.h i) (cellValue t.ws i))

/-! ## Hash state, chaining, iteration -/

/-- INIT v (44_chaining.md R211): BAD_VARIANT on 0b11, and otherwise VARIANT, H[0..<n] = IV_v, H[n..7] = 0, NBLK and
BLK 0, VALID 1, PADDED and DONE 0; nothing else changes. -/
def Obligations.InitMeaning : Prop :=
  FormatV 0x10#8 0x10000000#32 .init ∧ ∀ s : State,
    exec (.init 3#2) s = .next (s.setStatus { s.status with err := .badVariant }) ∧
    ∀ x : Variant, ∃ t, exec (.init (variantCode x)) s = .next t ∧
      t = ((((s.setVariant x).setH t.h).setNblk 0#64).setBlk 0#64).setStatus
        { s.status with valid := true, padded := false, done := false } ∧
      (∀ i < 8, cellWritten t.h i = true) ∧
      (∀ i < stateWords x, cellValue t.h i = (initialHash x).getD i 0#64) ∧
      ∀ i < 8, stateWords x ≤ i → cellValue t.h i = 0#64

/-- CHAIN (44_chaining.md R212): NOT_INIT, a model fault where an H or WS cell it reads is unwritten, and otherwise
H[i] = (low_w(H[i]) + low_w(WS[i])) mod 2^w for i < n, zero-extended; H[n..7] and everything else stay. -/
def Obligations.ChainMeaning : Prop :=
  FormatN 0x15#8 0x15000000#32 .chain ∧ ∀ s : State,
    (s.status.valid = false → exec .chain s = .next (s.setStatus { s.status with err := .notInit })) ∧
    (s.status.valid = true → ¬(s.HashWritten ∧ s.WorkWritten) →
      ∃ i < stateWords s.variant, ∃ c, (c = .h i ∨ c = .ws i) ∧ s.isWritten c = false ∧
        exec .chain s = .fault (.unwritten c)) ∧
    (s.status.valid = true → s.HashWritten → s.WorkWritten → ∃ t, exec .chain s = .next t ∧ t = s.setH t.h ∧
      (∀ i < stateWords s.variant, cellWritten t.h i = true ∧ (cellValue t.h i).toNat =
        ((cellValue s.h i).toNat % 2 ^ wordBits s.variant + (cellValue s.ws i).toNat % 2 ^ wordBits s.variant)
          % 2 ^ wordBits s.variant) ∧
      ∀ i, stateWords s.variant ≤ i → cellValue t.h i = cellValue s.h i ∧ cellWritten t.h i = cellWritten s.h i)

/-- STEP (44_chaining.md R213): NOT_INIT, NO_BLOCK, and otherwise EXPAND, COMPRESS, BLK + 1 in one step, with whatever
fault they meet; where the block and H[0..<n] are written it completes, BLK + 1 does not wrap, and only W, WS, H and
BLK change. -/
def Obligations.StepCommandMeaning : Prop :=
  FormatN 0x17#8 0x17000000#32 .step ∧ ∀ s : State,
    (s.status.valid = false → exec .step s = .next (s.setStatus { s.status with err := .notInit })) ∧
    (s.status.valid = true → s.nblk.toNat ≤ s.blk.toNat →
      exec .step s = .next (s.setStatus { s.status with err := .noBlock })) ∧
    (s.status.valid = true → s.blk.toNat < s.nblk.toNat →
      exec .step s = andThen (andThen (exec .expand s) (exec .compress)) fun t => .next (t.setBlk (t.blk + 1#64))) ∧
    (s.status.valid = true → s.blk.toNat < s.nblk.toNat → s.BlockWritten → s.HashWritten →
      ∃ t, exec .step s = .next t ∧ t = (((s.setW t.w).setWs t.ws).setH t.h).setBlk t.blk ∧
        t.blk.toNat = s.blk.toNat + 1)

/-- ITERATE (44_chaining.md R214): NOT_INIT, NOT_PADDED, nothing where BLK ≥ NBLK, and otherwise STEP and then ITERATE
again; where the remaining blocks and H[0..<n] are written it completes with BLK = max(BLK, NBLK), and only W, WS, H
and BLK change. -/
def Obligations.IterateMeaning : Prop :=
  FormatN 0x18#8 0x18000000#32 .iterate ∧ ∀ s : State,
    (s.status.valid = false → exec .iterate s = .next (s.setStatus { s.status with err := .notInit })) ∧
    (s.status.valid = true → s.status.padded = false →
      exec .iterate s = .next (s.setStatus { s.status with err := .notPadded })) ∧
    (s.status.valid = true → s.status.padded = true → s.nblk.toNat ≤ s.blk.toNat → exec .iterate s = .next s) ∧
    (s.status.valid = true → s.status.padded = true → s.blk.toNat < s.nblk.toNat →
      exec .iterate s = andThen (exec .step s) (exec .iterate)) ∧
    (s.status.valid = true → s.status.padded = true → s.HashWritten →
      s.MsgWritten (s.blk.toNat * blockBytes s.variant) (s.nblk.toNat * blockBytes s.variant) →
      ∃ t, exec .iterate s = .next t ∧ t = (((s.setW t.w).setWs t.ws).setH t.h).setBlk t.blk ∧
        t.blk.toNat = max s.blk.toNat s.nblk.toNat)

/-- FINAL (44_chaining.md R215): NOT_INIT, a model fault where some H[i] with i < n is unwritten, and otherwise byte k
of word i of the digest is DIG[i·wb + k], big-endian, DIG[D..63] are 0, DONE = 1, and nothing else changes. -/
def Obligations.FinalMeaning : Prop :=
  FormatN 0x19#8 0x19000000#32 .final ∧ ∀ s : State,
    (s.status.valid = false → exec .final s = .next (s.setStatus { s.status with err := .notInit })) ∧
    (s.status.valid = true → ¬s.HashWritten →
      ∃ i < stateWords s.variant, cellWritten s.h i = false ∧ exec .final s = .fault (.unwritten (.h i))) ∧
    (s.status.valid = true → s.HashWritten →
      ∃ t, exec .final s = .next t ∧ t = (s.setDig t.dig).setStatus { s.status with done := true } ∧
        (∀ i < stateWords s.variant, ∀ k < wordBytes s.variant, t.dig.read (i * wordBytes s.variant + k) =
          some (BitVec.ofNat 8 ((cellValue s.h i).toNat % 2 ^ wordBits s.variant
            / 2 ^ (8 * (wordBytes s.variant - 1 - k))))) ∧
        (∀ a < 64, digestBytes s.variant ≤ a → t.dig.read a = some 0x00#8) ∧
        ∀ a, 64 ≤ a → t.dig.read a = s.dig.read a)

/-- RUN v (44_chaining.md R216): BAD_VARIANT, BUF_OVERFLOW with nothing changed, and otherwise INIT, PAD, ITERATE,
FINAL in one step; a model fault where a byte of MSG[0..<LEN] is unwritten; where all are written it completes, with
VALID, PADDED and DONE set and NBLK = BLK = padlen/B, and what none of the four writes stays. -/
def Obligations.RunMeaning : Prop :=
  FormatV 0x1A#8 0x1A000000#32 .run ∧ ∀ s : State,
    exec (.run 3#2) s = .next (s.setStatus { s.status with err := .badVariant }) ∧
    ∀ x : Variant,
      (s.params.msgCap < padLen x s.len.toNat →
        exec (.run (variantCode x)) s = .next (s.setStatus { s.status with err := .bufOverflow })) ∧
      (padLen x s.len.toNat ≤ s.params.msgCap →
        exec (.run (variantCode x)) s =
          andThen (andThen (andThen (exec (.init (variantCode x)) s) (exec .pad)) (exec .iterate)) (exec .final)) ∧
      (padLen x s.len.toNat ≤ s.params.msgCap → ¬s.MsgWritten 0 s.len.toNat →
        ∃ a < s.len.toNat, s.msg.read a = none ∧ exec (.run (variantCode x)) s = .fault (.unwritten (.msg a))) ∧
      (padLen x s.len.toNat ≤ s.params.msgCap → s.MsgWritten 0 s.len.toNat →
        ∃ t, exec (.run (variantCode x)) s = .next t ∧
          t = ((((((((s.setVariant x).setH t.h).setWs t.ws).setW t.w).setMsg t.msg).setDig t.dig).setNblk t.nblk).setBlk
            t.nblk).setStatus { s.status with valid := true, padded := true, done := true } ∧
          t.nblk.toNat = padLen x s.len.toNat / blockBytes x ∧
          ∀ a, a < s.len.toNat ∨ padLen x s.len.toNat ≤ a → t.msg.read a = s.msg.read a)

/-- After RUN v, DIG[0..<D] is the document's digest of the message MSG[0..<LEN], computed by the pure function, and
DIG[D..63] are 0 (44_chaining.md R217). -/
def Obligations.RunComputesTheDigest : Prop :=
  ∀ (s : State) (x : Variant), padLen x s.len.toNat ≤ s.params.msgCap → s.MsgWritten 0 s.len.toNat →
    ∃ t, exec (.run (variantCode x)) s = .next t ∧
      (digestOf s.params.schedRot x (message s)).length = digestBytes x ∧
      (∀ a < digestBytes x, t.dig.read a = (digestOf s.params.schedRot x (message s))[a]?) ∧
      ∀ a < 64, digestBytes x ≤ a → t.dig.read a = some 0x00#8

/-- The pseudo-instruction BLOCK has the effect of STEP except that BLK is not advanced (30_encoding.md R103). -/
def Obligations.BlockPseudoIsStepWithoutBlk : Prop :=
  ∀ s t : State, s.status.valid = true → s.blk.toNat < s.nblk.toNat → exec .step s = .next t →
    andThen (((List.range (rounds s.variant)).map fun k => exec (.round (BitVec.ofNat 8 k))).foldl andThen
      (andThen (exec .expand s) (exec .wsinit))) (exec .chain) = .next (t.setBlk s.blk)

/-- A command of a 32-bit variant does not see bits 63:32 of H, WS and W: states that differ there alone lead to the
same WS[0..<n] after WSINIT and ROUND and to the same H[0..<n] after CHAIN (10_state.md R46). -/
def Obligations.UpperHalvesAreIgnored : Prop :=
  ∀ (s t : State) (i : Instr) (h ws : Vector DataCell 8) (w : Vector DataCell 80),
    s.variant ≠ .C → s.status.valid = true →
    (i = .wsinit ∨ i = .chain ∨ ∃ k : BitVec 8, i = .round k ∧ k.toNat < rounds s.variant) →
    (∀ j, low32 (cellValue h j) = low32 (cellValue s.h j) ∧ cellWritten h j = cellWritten s.h j) →
    (∀ j, low32 (cellValue ws j) = low32 (cellValue s.ws j) ∧ cellWritten ws j = cellWritten s.ws j) →
    (∀ j, low32 (cellValue w j) = low32 (cellValue s.w j) ∧ cellWritten w j = cellWritten s.w j) →
    exec i s = .next t →
    ∃ u, exec i (((s.setH h).setWs ws).setW w) = .next u ∧
      ∀ j < stateWords s.variant,
        (i ≠ .chain → cellValue u.ws j = cellValue t.ws j) ∧ (i = .chain → cellValue u.h j = cellValue t.h j)

/-! ## Control commands -/

/-- NOP (45_control.md R240): skip; and with no command in flight its CMD write and the engine step together set
LASTCMD and leave everything else, whatever ERR holds. -/
def Obligations.NopMeaning : Prop :=
  FormatN 0x00#8 0x00000000#32 .nop ∧ (∀ s : State, exec .nop s = .next s) ∧
  ∀ s : State, s.status.busy = false → s.pending = none →
    ∃ u, hostStep (.regWrite 0x000#16 0#64) s = .next u ∧ u.status.busy = true ∧ u.lastCmd = 0#32 ∧
      performEvent .engine u = .next (s.setLastCmd 0#32)

/-- CLRERR (45_control.md R241): ERR, OVR, AERR <- 0 and nothing else, also while ERR ≠ 0; a malformed CLRERR word is
checked while ERR ≠ 0 and replaces ERR with ILLEGAL_CMD. -/
def Obligations.ClrerrMeaning : Prop :=
  FormatN 0x1E#8 0x1E000000#32 .clrerr ∧
  (∀ s : State, exec .clrerr s = .next (s.setStatus { s.status with err := .none, ovr := false, aerr := false }) ∧
    performWord 0x1E000000#32 s = exec .clrerr s) ∧
  ∀ (s : State) (c : CmdWord), opField c = 0x1E#8 → c ≠ 0x1E000000#32 →
    performWord c s = .next (s.setStatus { s.status with err := .illegalCmd })

/-- SRESET (45_control.md R242): the control state takes its reset values, every data cell keeps value and mark, also
while ERR ≠ 0, and a malformed SRESET word raises ILLEGAL_CMD then too; and it differs from the reset event only on data (70_reset_and_hazards.md R292). -/
def Obligations.SresetMeaning : Prop :=
  FormatN 0x1F#8 0x1F000000#32 .sreset ∧
  (∀ s : State, exec .sreset s = .next ((((((s.setStatus { Status.zero with busy := s.status.busy }).setVariant
      .A).setLen 0#64).setNblk 0#64).setBlk 0#64).setLastCmd 0#32) ∧
    performWord 0x1F000000#32 s = exec .sreset s) ∧
  (∀ (s : State) (c : CmdWord), opField c = 0x1F#8 → c ≠ 0x1F000000#32 →
    performWord c s = .next (s.setStatus { s.status with err := .illegalCmd })) ∧
  ∀ s : State, ∃ t, engineStep (s.setPending (some 0x1F000000#32)) = .next t ∧
    t = (((((((resetEvent s).setRotIn s.rotIn).setRotOut s.rotOut).setH s.h).setWs s.ws).setW s.w).setMsg
      s.msg).setDig s.dig

/-! ## Host operations and reset -/

/-- The REG map (20_memory.md R61): the mapped indices, each with its register; every other index is unmapped. -/
def Obligations.RegMapIsTheTable : Prop :=
  (List.range 10).map (fun k => regOf (BitVec.ofNat 16 k)) =
    [some .cmd, some .status, some .variant, some .len, some .nblk, some .blk, some .rotIn, some .rotOut,
      some .msgcap, some .config] ∧
  (∀ i : Fin 8, regOf (BitVec.ofNat 16 (0x010 + i.val)) = some (.h i)) ∧
  (∀ i : Fin 8, regOf (BitVec.ofNat 16 (0x018 + i.val)) = some (.ws i)) ∧
  (∀ i : Fin 80, regOf (BitVec.ofNat 16 (0x020 + i.val)) = some (.w i)) ∧
  ∀ i : BitVec 16, (0x00A ≤ i.toNat ∧ i.toNat ≤ 0x00F) ∨ 0x070 ≤ i.toNat → regOf i = none

/-- RegRead (20_memory.md R62): unmapped gives 0 and sets AERR; CMD, STATUS, MSGCAP and CONFIG are exact at all times;
any other register returns some value while BUSY = 1, and otherwise its value, or a model fault where it is an
unwritten cell; a read has no other effect on the block. -/
def Obligations.RegReadMeaning : Prop :=
  ∀ (s : State) (i : BitVec 16),
    (regOf i = none →
      hostStep (.regRead i) s = .next (reply (.word 0#64) (s.setStatus { s.status with aerr := true }))) ∧
    (∀ r, regOf i = some r → r ∈ [RegId.cmd, .status, .msgcap, .config] →
      hostStep (.regRead i) s = .next (reply (.word (regValue r s)) s)) ∧
    (∀ r, regOf i = some r → r ∉ [RegId.cmd, .status, .msgcap, .config] → s.status.busy = true →
      ∃ v, hostStep (.regRead i) s = .next (drawn (reply (.word v) s))) ∧
    (∀ r, regOf i = some r → s.status.busy = false → (∀ c ∈ regReads r, s.isWritten c = true) →
      hostStep (.regRead i) s = .next (reply (.word (regValue r s)) s)) ∧
    ∀ r c, regOf i = some r → s.status.busy = false → c ∈ regReads r → s.isWritten c = false →
      hostStep (.regRead i) s = .fault (.unwritten c)

/-- RegWrite (20_memory.md R63): unmapped sets AERR; a read-only register ignores the write without a flag; while
BUSY = 1 the write is dropped and sets OVR (R75); otherwise a later read gives the 64 bits written, and the write to CMD
latches the word (10_state.md R23). -/
def Obligations.RegWriteMeaning : Prop :=
  ∀ (s : State) (i : BitVec 16) (v : Word),
    (regOf i = none → hostStep (.regWrite i v) s = .next (s.setStatus { s.status with aerr := true })) ∧
    (∀ r, regOf i = some r → r ∈ [RegId.status, .variant, .nblk, .rotOut, .msgcap, .config] →
      hostStep (.regWrite i v) s = .next s) ∧
    (∀ r, regOf i = some r → r ∉ [RegId.status, .variant, .nblk, .rotOut, .msgcap, .config] → s.status.busy = true →
      hostStep (.regWrite i v) s = .next (s.setStatus { s.status with ovr := true })) ∧
    (i = 0x000#16 → s.status.busy = false → hostStep (.regWrite i v) s =
      .next (((s.setPending (some (v.setWidth 32))).setLastCmd (v.setWidth 32)).setStatus { s.status with busy := true })) ∧
    ∀ r, regOf i = some r → r ∉ [RegId.cmd, .status, .variant, .nblk, .rotOut, .msgcap, .config] →
      s.status.busy = false → ∃ t, hostStep (.regWrite i v) s = .next t ∧
        regValue r t = v ∧ (∀ c ∈ regReads r, t.isWritten c = true) ∧
        (∀ q, q ≠ r → regValue q t = regValue q s) ∧ (∀ c, c ∉ regReads r → t.isWritten c = s.isWritten c) ∧
        t = ((((((s.setLen t.len).setBlk t.blk).setRotIn t.rotIn).setH t.h).setWs t.ws).setW t.w)

/-- MsgWrite and MsgRead (20_memory.md R64). -/
def Obligations.MsgAccessMeaning : Prop :=
  ∀ (s : State) (a : Nat) (b : Byte),
    (s.params.msgCap ≤ a →
      hostStep (.msgWrite a b) s = .next (s.setStatus { s.status with aerr := true }) ∧
      hostStep (.msgRead a) s = .next (reply (.byte 0#8) (s.setStatus { s.status with aerr := true }))) ∧
    (a < s.params.msgCap → s.status.busy = true →
      hostStep (.msgWrite a b) s = .next (s.setStatus { s.status with ovr := true }) ∧
      ∃ v, hostStep (.msgRead a) s = .next (drawn (reply (.byte v) s))) ∧
    (a < s.params.msgCap → s.status.busy = false →
      (∃ m, hostStep (.msgWrite a b) s = .next (s.setMsg m) ∧ m.read a = some b ∧
        ∀ k, k ≠ a → m.read k = s.msg.read k) ∧
      (∀ v, s.msg.read a = some v → hostStep (.msgRead a) s = .next (reply (.byte v) s)) ∧
      (s.msg.read a = none → hostStep (.msgRead a) s = .fault (.unwritten (.msg a))))

/-- DigRead (20_memory.md R65). -/
def Obligations.DigReadMeaning : Prop :=
  ∀ (s : State) (a : Nat),
    (64 ≤ a → hostStep (.digRead a) s = .next (reply (.byte 0#8) (s.setStatus { s.status with aerr := true }))) ∧
    (a < 64 → s.status.busy = true → ∃ v, hostStep (.digRead a) s = .next (drawn (reply (.byte v) s))) ∧
    (a < 64 → s.status.busy = false →
      (∀ v, s.dig.read a = some v → hostStep (.digRead a) s = .next (reply (.byte v) s)) ∧
      (s.dig.read a = none → hostStep (.digRead a) s = .fault (.unwritten (.dig a))))

/-- A step with a host operation or the reset event listed first performs it, whatever BUSY is
(20_memory.md R67, R76, 70_reset_and_hazards.md R291; that the history is a list in the state is log 1). -/
def Obligations.StepPerformsTheListedEvent : Prop :=
  ∀ (s : State) (e : Event) (rest : List Event), s.host.todo = e :: rest →
    step s = performEvent e (s.setHost { s.host with todo := rest }) ∧
    (∀ op, e = .host op → step s = hostStep op (s.setHost { s.host with todo := rest })) ∧
    (e = .reset → step s = .next (resetEvent (s.setHost { s.host with todo := rest })))

/-- The reset event (70_reset_and_hazards.md R290, R291): STATUS 0, PENDING invalid, LASTCMD, LEN, NBLK, BLK and
VARIANT 0, every data cell marked unwritten, from every state. -/
def Obligations.ResetEventMeaning : Prop :=
  ∀ s : State, ∃ t, performEvent .reset s = .next t ∧
    statusWord t.status = 0#64 ∧ t.pending = none ∧ t.lastCmd = 0#32 ∧ variantCode t.variant = 0#2 ∧
    t.len = 0#64 ∧ t.nblk = 0#64 ∧ t.blk = 0#64 ∧ t.params = s.params ∧ ∀ c, t.isWritten c = false

/-- The layout of STATUS (10_state.md R25): each flag in its bit, ERR in bits 15:8, and the reserved bits 7:6 and
63:16 zero. -/
def Obligations.StatusLayout : Prop :=
  ∀ st : Status,
    (statusWord st).getLsbD 0 = st.busy ∧ (statusWord st).getLsbD 1 = st.done ∧
    (statusWord st).getLsbD 2 = st.padded ∧ (statusWord st).getLsbD 3 = st.valid ∧
    (statusWord st).getLsbD 4 = st.ovr ∧ (statusWord st).getLsbD 5 = st.aerr ∧
    (statusWord st).extractLsb' 6 2 = 0#2 ∧ (statusWord st).extractLsb' 8 8 = errNumber st.err ∧
    (statusWord st).extractLsb' 16 48 = 0#48

/-- A program's CMD write reaches the engine: after the CMD write that `withFetchWord` stands for, the next step
performs that word where no error stands (10_state.md R23, log 12). -/
def Obligations.FetchWordIsTheNextCommand : Prop :=
  ∀ (s : State) (i : Instr), s.status.err = .none →
    step (s.withFetchWord 32 (encode i).toNat) =
      andThen (exec i (((s.setPending none).setLastCmd (encode i)).setStatus { s.status with busy := true })) fun t =>
        .next (t.setStatus { t.status with busy := false })

/-! ## Assembler syntax -/

/-- The assembler (30_encoding.md R101) refuses an immediate outside 0..255 and a variant letter other than A, B or C,
so it cannot spell VAR = 3; and it spells every other command. -/
def Obligations.AssemblerRefusesWhatItCannotSpell : Prop :=
  (∀ (m : String) (n : Nat), 255 < n → assemble m (.num n) = none) ∧
  (∀ (m : String) (c : Char), c ∉ ['A', 'B', 'C'] → assemble m (.letter c) = none) ∧
  ∀ i : Instr, (∃ (m : String) (o : AsmOperand), assemble m o = some i) ↔ i ≠ .init 3#2 ∧ i ≠ .run 3#2

/-! ## Cells marked unwritten -/

/-- No step stops where no cell is marked: in a state that meets the invariant and in which every data cell is written,
every transition of the history completes, whatever the values (60_exceptions.md R266). -/
def Obligations.EveryStepCompletesOnWrittenCells : Prop := ∀ s : State, s.Inv → s.AllWritten → Completes (step s)

/-- The model fault errs toward unprovable and never toward proving (00_scope.md R13): a step that the model takes is
taken with the same effect in every state that differs only in the contents of cells marked unwritten, so that no
claim about a next state rests on what such a cell holds (log 6). -/
def Obligations.UnwrittenContentsNeverMatter : Prop :=
  ∀ s t u : State, s.StandsFor u → step s = .next t → ∃ v, step u = .next v ∧ t.StandsFor v

/-- A hardware always goes on, also where the model faults, and where the model takes a step the hardware takes no other
(00_scope.md R13): from a state that meets the invariant it has a transition, and each one it has leads to a state that
the model's next state stands for. -/
def Obligations.HardwareGoesOnWhereTheModelFaults : Prop :=
  ∀ s : State, s.Inv → (∃ v, HardwareStep s v) ∧ ∀ t v, step s = .next t → HardwareStep s v → t.StandsFor v
end

