-- ==== Sys2Proof/Laws/Cells.lean ====
section
/-! SUPPORT. The laws of the register files and of the word views. -/

namespace Sys2Proof.Machine

theorem writeFrom_getD (cs : List DataCell) (vs : List Word) (i : Nat) (d : DataCell) :
    (writeFrom cs vs).getD i d =
      if i < vs.length ∧ i < cs.length then DataCell.ofWord (vs.getD i 0#64) else cs.getD i d := by
  induction cs generalizing vs i with
  | nil => simp [writeFrom]
  | cons c cs ih =>
    cases vs with
    | nil => simp [writeFrom]
    | cons v vs =>
      cases i with
      | zero => simp [writeFrom]
      | succ i => simpa [writeFrom] using ih vs i

theorem writeFirst_cell {n : Nat} (f : Vector DataCell n) (vs : List Word) (i : Nat) :
    (writeFirst f vs).toList.getD i DataCell.unwritten =
      if i < vs.length ∧ i < n then DataCell.ofWord (vs.getD i 0#64) else f.toList.getD i DataCell.unwritten := by
  have h : (writeFirst f vs).toList = writeFrom f.toList vs := by simp [writeFirst]
  rw [h, writeFrom_getD]
  simp

/-- A written prefix: the cell holds the word and carries no unwritten mark (10_state.md R21). -/
theorem cellValue_writeFirst {n : Nat} (f : Vector DataCell n) (vs : List Word) (i : Nat) :
    cellValue (writeFirst f vs) i = if i < vs.length ∧ i < n then vs.getD i 0#64 else cellValue f i := by
  unfold cellValue
  rw [writeFirst_cell]
  split <;> rfl

theorem cellWritten_writeFirst {n : Nat} (f : Vector DataCell n) (vs : List Word) (i : Nat) :
    cellWritten (writeFirst f vs) i = if i < vs.length ∧ i < n then true else cellWritten f i := by
  unfold cellWritten
  rw [writeFirst_cell]
  split <;> rfl

/-- A write only clears unwritten marks. -/
theorem cellWritten_writeFirst_of {n : Nat} {f : Vector DataCell n} {i : Nat} (vs : List Word)
    (h : cellWritten f i = true) : cellWritten (writeFirst f vs) i = true := by
  rw [cellWritten_writeFirst]
  split
  · rfl
  · exact h

theorem toList_set_getD {n : Nat} (f : Vector DataCell n) (k : Nat) (hk : k < n) (c : DataCell) (i : Nat) :
    (f.set k c hk).toList.getD i DataCell.unwritten = if i = k then c else f.toList.getD i DataCell.unwritten := by
  have h : (f.set k c hk).toList = f.toList.set k c := by simp [Vector.toList_set]
  rw [h, List.getD_eq_getElem?_getD, List.getD_eq_getElem?_getD, List.getElem?_set]
  by_cases hik : k = i
  · subst hik
    simp [hk]
  · simp [hik, Ne.symm hik]

theorem cellValue_set {n : Nat} (f : Vector DataCell n) (k : Nat) (hk : k < n) (v : Word) (i : Nat) :
    cellValue (f.set k (DataCell.ofWord v) hk) i = if i = k then v else cellValue f i := by
  unfold cellValue
  rw [toList_set_getD]
  split <;> rfl

theorem cellWritten_set {n : Nat} (f : Vector DataCell n) (k : Nat) (hk : k < n) (v : Word) (i : Nat) :
    cellWritten (f.set k (DataCell.ofWord v) hk) i = if i = k then true else cellWritten f i := by
  unfold cellWritten
  rw [toList_set_getD]
  split <;> rfl

/-! ### Word views -/

theorem lowWord_toNat (v : Variant) (x : Word) : (lowWord v x).toNat = x.toNat % 2 ^ wordBits v := by
  have := x.isLt
  cases v <;> simp [lowWord, low32, zext64, wordBits, wordBytes] <;> omega

theorem addWords_toNat (v : Variant) (x y : Word) :
    (addWords v x y).toNat = (x.toNat % 2 ^ wordBits v + y.toNat % 2 ^ wordBits v) % 2 ^ wordBits v := by
  have := x.isLt
  have := y.isLt
  cases v <;> simp [addWords, low32, zext64, wordBits, wordBytes] <;> omega

/-! ### Big-endian byte sequences -/

theorem bytesBE_length (n v : Nat) : (bytesBE n v).length = n := by
  induction n with
  | zero => rfl
  | succ n ih => simp [bytesBE, ih]

/-- `MemRead` of what `MemWrite` wrote (00_scope.md R11). -/
theorem ofBytesBE_bytesBE (n v : Nat) : ofBytesBE (bytesBE n v) = v % 2 ^ (8 * n) := by
  induction n with
  | zero => simp [bytesBE, ofBytesBE, Nat.mod_one]
  | succ n ih =>
    simp only [bytesBE, ofBytesBE, bytesBE_length, ih, BitVec.toNat_ofNat]
    have h : 2 ^ (8 * (n + 1)) = 2 ^ (8 * n) * 2 ^ 8 := by rw [← Nat.pow_add]; congr 1
    rw [h, Nat.mod_mul]
    ring

end Sys2Proof.Machine
end

