-- ==== Sys2Proof/Laws/Memory.lean ====
section
/-! SUPPORT. The laws of the two buffers: a read after a write, the untouched cells, the canonical form, and the
bound on addresses. -/

namespace Sys2Proof.Machine

theorem lookupCell_insertCell (cs : List Host.Cell) (a : Nat) (b : Byte) (k : Nat) :
    lookupCell (insertCell cs a b) k = if k = a then some b else lookupCell cs k := by
  induction cs with
  | nil => simp [insertCell, lookupCell, eq_comm]
  | cons c cs ih =>
    obtain ⟨x, y⟩ := c
    by_cases hlt : a < x
    · simp only [insertCell, hlt, if_true, lookupCell]
      simp only [eq_comm]
    · by_cases heq : a = x
      · subst heq
        simp only [insertCell, lt_irrefl, if_false, if_true, lookupCell]
        by_cases h : a = k <;> simp [h, eq_comm]
      · simp only [insertCell, hlt, heq, if_false, lookupCell, ih]
        by_cases h : x = k
        · subst h; simp [Ne.symm heq]
        · simp [h]

@[simp] theorem Memory.read_write_same (m : Memory) (a : Nat) (b : Byte) : (m.write a b).read a = some b := by
  simp [Memory.read, Memory.write, lookupCell_insertCell]

theorem Memory.read_write_ne (m : Memory) {a k : Nat} (b : Byte) (h : k ≠ a) : (m.write a b).read k = m.read k := by
  simp [Memory.read, Memory.write, lookupCell_insertCell, h]

@[simp] theorem Memory.read_empty (a : Nat) : Memory.empty.read a = none := rfl

theorem mem_insertCell {cs : List Host.Cell} {a : Nat} {b : Byte} {c : Host.Cell} (h : c ∈ insertCell cs a b) :
    c = (a, b) ∨ c ∈ cs := by
  induction cs with
  | nil => simpa [insertCell] using h
  | cons x cs ih =>
    obtain ⟨k, y⟩ := x
    simp only [insertCell] at h
    split at h
    · simpa using h
    · split at h
      · rcases List.mem_cons.mp h with h | h
        · exact .inl h
        · exact .inr (List.mem_cons_of_mem _ h)
      · rcases List.mem_cons.mp h with h | h
        · exact .inr (h ▸ List.mem_cons_self)
        · exact (ih h).imp_right (List.mem_cons_of_mem _)

/-- A write keeps the addresses strictly rising. -/
theorem Memory.wf_write {m : Memory} (h : m.wf) (a : Nat) (b : Byte) : (m.write a b).wf := by
  obtain ⟨cs⟩ := m
  show (insertCell cs a b).Pairwise _
  have hcs : cs.Pairwise fun x y => x.1 < y.1 := h
  clear h
  induction cs with
  | nil => simp [insertCell]
  | cons x cs ih =>
    obtain ⟨k, y⟩ := x
    obtain ⟨hx, hcs⟩ := List.pairwise_cons.mp hcs
    simp only [insertCell]
    split
    · rename_i hlt
      refine List.pairwise_cons.mpr ⟨fun c hc => ?_, List.pairwise_cons.mpr ⟨hx, hcs⟩⟩
      rcases List.mem_cons.mp hc with rfl | hc
      · exact hlt
      · exact Nat.lt_trans hlt (hx c hc)
    · split
      · rename_i heq
        exact List.pairwise_cons.mpr ⟨fun c hc => heq ▸ hx c hc, hcs⟩
      · rename_i hlt hne
        refine List.pairwise_cons.mpr ⟨fun c hc => ?_, ih hcs⟩
        rcases mem_insertCell hc with rfl | hc
        · show k < a
          omega
        · exact hx c hc

theorem Memory.below_write {m : Memory} {bound a : Nat} (h : m.below bound) (ha : a < bound) (b : Byte) :
    (m.write a b).below bound := fun c hc => by
  rcases mem_insertCell hc with rfl | hc
  · exact ha
  · exact h c hc

/-- A listed byte lies below the bound: a read beyond it finds an unwritten cell. -/
theorem Memory.read_of_below {m : Memory} {bound a : Nat} (h : m.below bound) (ha : bound ≤ a) : m.read a = none := by
  obtain ⟨cs⟩ := m
  show lookupCell cs a = none
  replace h : ∀ c ∈ cs, c.1 < bound := h
  induction cs with
  | nil => rfl
  | cons x cs ih =>
    have hx := h x List.mem_cons_self
    have hne : x.1 ≠ a := by omega
    simp only [lookupCell, hne, if_false]
    exact ih fun c hc => h c (List.mem_cons_of_mem _ hc)

/-! ### Consecutive writes -/

/-- What a byte reads as after consecutive writes. -/
theorem Memory.read_writeBytes (m : Memory) (a : Nat) (bs : List Byte) (k : Nat) :
    (m.writeBytes a bs).read k = if a ≤ k ∧ k < a + bs.length then bs[k - a]? else m.read k := by
  induction bs generalizing m a with
  | nil =>
    simp [Memory.writeBytes]
  | cons b bs ih =>
    simp only [Memory.writeBytes, ih, List.length_cons]
    by_cases hk : k = a
    · subst hk
      have h1 : ¬(k + 1 ≤ k ∧ k < k + 1 + bs.length) := by omega
      have h2 : k ≤ k ∧ k < k + (bs.length + 1) := by omega
      rw [if_neg h1, if_pos h2]; simp
    · by_cases hin : a + 1 ≤ k ∧ k < a + 1 + bs.length
      · have h2 : a ≤ k ∧ k < a + (bs.length + 1) := by omega
        have h3 : k - a = (k - (a + 1)) + 1 := by omega
        rw [if_pos hin, if_pos h2, h3, List.getElem?_cons_succ]
      · have h2 : ¬(a ≤ k ∧ k < a + (bs.length + 1)) := by omega
        rw [if_neg hin, if_neg h2, Memory.read_write_ne _ _ hk]

theorem Memory.read_writeBytes_outside (m : Memory) {a k : Nat} {bs : List Byte} (h : k < a ∨ a + bs.length ≤ k) :
    (m.writeBytes a bs).read k = m.read k := by
  have : ¬(a ≤ k ∧ k < a + bs.length) := by omega
  simp [Memory.read_writeBytes, this]

theorem Memory.read_writeBytes_inside (m : Memory) {a : Nat} {bs : List Byte} {i : Nat} (h : i < bs.length) :
    (m.writeBytes a bs).read (a + i) = some bs[i] := by
  have : a ≤ a + i ∧ a + i < a + bs.length := by omega
  simp [Memory.read_writeBytes, this, h]

/-- A write only clears unwritten marks. -/
theorem Memory.isSome_read_writeBytes (m : Memory) (a : Nat) (bs : List Byte) {k : Nat}
    (h : (m.read k).isSome = true) : ((m.writeBytes a bs).read k).isSome = true := by
  rw [Memory.read_writeBytes]
  split
  · rename_i hk
    have : k - a < bs.length := by omega
    simp [this]
  · exact h

theorem Memory.wf_writeBytes {m : Memory} (h : m.wf) (a : Nat) (bs : List Byte) : (m.writeBytes a bs).wf := by
  induction bs generalizing m a with
  | nil => exact h
  | cons b bs ih => exact ih (Memory.wf_write h a b) (a + 1)

theorem Memory.below_writeBytes {m : Memory} {bound a : Nat} {bs : List Byte} (h : m.below bound)
    (ha : a + bs.length ≤ bound) : (m.writeBytes a bs).below bound := by
  induction bs generalizing m a with
  | nil => exact h
  | cons b bs ih =>
    simp only [List.length_cons] at ha
    exact ih (Memory.below_write h (by omega) b) (by omega)

end Sys2Proof.Machine
end

