-- ==== Sys2Proof/Laws/State.lean ====
section
/-! SUPPORT. One lemma for each field of the state and each setter, all true by definition, so that no later proof
unfolds a record update; and the same for the changes of STATUS. -/

namespace Sys2Proof.Machine

section LastCmdUpdate
variable (s : State) (c : CmdWord)
@[simp] theorem State.setLastCmd_lastCmd : (s.setLastCmd c).lastCmd = c := rfl
@[simp] theorem State.setLastCmd_pending : (s.setLastCmd c).pending = s.pending := rfl
@[simp] theorem State.setLastCmd_status : (s.setLastCmd c).status = s.status := rfl
@[simp] theorem State.setLastCmd_variant : (s.setLastCmd c).variant = s.variant := rfl
@[simp] theorem State.setLastCmd_len : (s.setLastCmd c).len = s.len := rfl
@[simp] theorem State.setLastCmd_nblk : (s.setLastCmd c).nblk = s.nblk := rfl
@[simp] theorem State.setLastCmd_blk : (s.setLastCmd c).blk = s.blk := rfl
@[simp] theorem State.setLastCmd_rotIn : (s.setLastCmd c).rotIn = s.rotIn := rfl
@[simp] theorem State.setLastCmd_rotOut : (s.setLastCmd c).rotOut = s.rotOut := rfl
@[simp] theorem State.setLastCmd_h : (s.setLastCmd c).h = s.h := rfl
@[simp] theorem State.setLastCmd_ws : (s.setLastCmd c).ws = s.ws := rfl
@[simp] theorem State.setLastCmd_w : (s.setLastCmd c).w = s.w := rfl
@[simp] theorem State.setLastCmd_msg : (s.setLastCmd c).msg = s.msg := rfl
@[simp] theorem State.setLastCmd_dig : (s.setLastCmd c).dig = s.dig := rfl
@[simp] theorem State.setLastCmd_params : (s.setLastCmd c).params = s.params := rfl
@[simp] theorem State.setLastCmd_host : (s.setLastCmd c).host = s.host := rfl
end LastCmdUpdate

section PendingUpdate
variable (s : State) (p : Option CmdWord)
@[simp] theorem State.setPending_lastCmd : (s.setPending p).lastCmd = s.lastCmd := rfl
@[simp] theorem State.setPending_pending : (s.setPending p).pending = p := rfl
@[simp] theorem State.setPending_status : (s.setPending p).status = s.status := rfl
@[simp] theorem State.setPending_variant : (s.setPending p).variant = s.variant := rfl
@[simp] theorem State.setPending_len : (s.setPending p).len = s.len := rfl
@[simp] theorem State.setPending_nblk : (s.setPending p).nblk = s.nblk := rfl
@[simp] theorem State.setPending_blk : (s.setPending p).blk = s.blk := rfl
@[simp] theorem State.setPending_rotIn : (s.setPending p).rotIn = s.rotIn := rfl
@[simp] theorem State.setPending_rotOut : (s.setPending p).rotOut = s.rotOut := rfl
@[simp] theorem State.setPending_h : (s.setPending p).h = s.h := rfl
@[simp] theorem State.setPending_ws : (s.setPending p).ws = s.ws := rfl
@[simp] theorem State.setPending_w : (s.setPending p).w = s.w := rfl
@[simp] theorem State.setPending_msg : (s.setPending p).msg = s.msg := rfl
@[simp] theorem State.setPending_dig : (s.setPending p).dig = s.dig := rfl
@[simp] theorem State.setPending_params : (s.setPending p).params = s.params := rfl
@[simp] theorem State.setPending_host : (s.setPending p).host = s.host := rfl
end PendingUpdate

section StatusUpdate
variable (s : State) (st : Status)
@[simp] theorem State.setStatus_lastCmd : (s.setStatus st).lastCmd = s.lastCmd := rfl
@[simp] theorem State.setStatus_pending : (s.setStatus st).pending = s.pending := rfl
@[simp] theorem State.setStatus_status : (s.setStatus st).status = st := rfl
@[simp] theorem State.setStatus_variant : (s.setStatus st).variant = s.variant := rfl
@[simp] theorem State.setStatus_len : (s.setStatus st).len = s.len := rfl
@[simp] theorem State.setStatus_nblk : (s.setStatus st).nblk = s.nblk := rfl
@[simp] theorem State.setStatus_blk : (s.setStatus st).blk = s.blk := rfl
@[simp] theorem State.setStatus_rotIn : (s.setStatus st).rotIn = s.rotIn := rfl
@[simp] theorem State.setStatus_rotOut : (s.setStatus st).rotOut = s.rotOut := rfl
@[simp] theorem State.setStatus_h : (s.setStatus st).h = s.h := rfl
@[simp] theorem State.setStatus_ws : (s.setStatus st).ws = s.ws := rfl
@[simp] theorem State.setStatus_w : (s.setStatus st).w = s.w := rfl
@[simp] theorem State.setStatus_msg : (s.setStatus st).msg = s.msg := rfl
@[simp] theorem State.setStatus_dig : (s.setStatus st).dig = s.dig := rfl
@[simp] theorem State.setStatus_params : (s.setStatus st).params = s.params := rfl
@[simp] theorem State.setStatus_host : (s.setStatus st).host = s.host := rfl
end StatusUpdate

section VariantUpdate
variable (s : State) (v : Variant)
@[simp] theorem State.setVariant_lastCmd : (s.setVariant v).lastCmd = s.lastCmd := rfl
@[simp] theorem State.setVariant_pending : (s.setVariant v).pending = s.pending := rfl
@[simp] theorem State.setVariant_status : (s.setVariant v).status = s.status := rfl
@[simp] theorem State.setVariant_variant : (s.setVariant v).variant = v := rfl
@[simp] theorem State.setVariant_len : (s.setVariant v).len = s.len := rfl
@[simp] theorem State.setVariant_nblk : (s.setVariant v).nblk = s.nblk := rfl
@[simp] theorem State.setVariant_blk : (s.setVariant v).blk = s.blk := rfl
@[simp] theorem State.setVariant_rotIn : (s.setVariant v).rotIn = s.rotIn := rfl
@[simp] theorem State.setVariant_rotOut : (s.setVariant v).rotOut = s.rotOut := rfl
@[simp] theorem State.setVariant_h : (s.setVariant v).h = s.h := rfl
@[simp] theorem State.setVariant_ws : (s.setVariant v).ws = s.ws := rfl
@[simp] theorem State.setVariant_w : (s.setVariant v).w = s.w := rfl
@[simp] theorem State.setVariant_msg : (s.setVariant v).msg = s.msg := rfl
@[simp] theorem State.setVariant_dig : (s.setVariant v).dig = s.dig := rfl
@[simp] theorem State.setVariant_params : (s.setVariant v).params = s.params := rfl
@[simp] theorem State.setVariant_host : (s.setVariant v).host = s.host := rfl
end VariantUpdate

section LenUpdate
variable (s : State) (v : Word)
@[simp] theorem State.setLen_lastCmd : (s.setLen v).lastCmd = s.lastCmd := rfl
@[simp] theorem State.setLen_pending : (s.setLen v).pending = s.pending := rfl
@[simp] theorem State.setLen_status : (s.setLen v).status = s.status := rfl
@[simp] theorem State.setLen_variant : (s.setLen v).variant = s.variant := rfl
@[simp] theorem State.setLen_len : (s.setLen v).len = v := rfl
@[simp] theorem State.setLen_nblk : (s.setLen v).nblk = s.nblk := rfl
@[simp] theorem State.setLen_blk : (s.setLen v).blk = s.blk := rfl
@[simp] theorem State.setLen_rotIn : (s.setLen v).rotIn = s.rotIn := rfl
@[simp] theorem State.setLen_rotOut : (s.setLen v).rotOut = s.rotOut := rfl
@[simp] theorem State.setLen_h : (s.setLen v).h = s.h := rfl
@[simp] theorem State.setLen_ws : (s.setLen v).ws = s.ws := rfl
@[simp] theorem State.setLen_w : (s.setLen v).w = s.w := rfl
@[simp] theorem State.setLen_msg : (s.setLen v).msg = s.msg := rfl
@[simp] theorem State.setLen_dig : (s.setLen v).dig = s.dig := rfl
@[simp] theorem State.setLen_params : (s.setLen v).params = s.params := rfl
@[simp] theorem State.setLen_host : (s.setLen v).host = s.host := rfl
end LenUpdate

section NblkUpdate
variable (s : State) (v : Word)
@[simp] theorem State.setNblk_lastCmd : (s.setNblk v).lastCmd = s.lastCmd := rfl
@[simp] theorem State.setNblk_pending : (s.setNblk v).pending = s.pending := rfl
@[simp] theorem State.setNblk_status : (s.setNblk v).status = s.status := rfl
@[simp] theorem State.setNblk_variant : (s.setNblk v).variant = s.variant := rfl
@[simp] theorem State.setNblk_len : (s.setNblk v).len = s.len := rfl
@[simp] theorem State.setNblk_nblk : (s.setNblk v).nblk = v := rfl
@[simp] theorem State.setNblk_blk : (s.setNblk v).blk = s.blk := rfl
@[simp] theorem State.setNblk_rotIn : (s.setNblk v).rotIn = s.rotIn := rfl
@[simp] theorem State.setNblk_rotOut : (s.setNblk v).rotOut = s.rotOut := rfl
@[simp] theorem State.setNblk_h : (s.setNblk v).h = s.h := rfl
@[simp] theorem State.setNblk_ws : (s.setNblk v).ws = s.ws := rfl
@[simp] theorem State.setNblk_w : (s.setNblk v).w = s.w := rfl
@[simp] theorem State.setNblk_msg : (s.setNblk v).msg = s.msg := rfl
@[simp] theorem State.setNblk_dig : (s.setNblk v).dig = s.dig := rfl
@[simp] theorem State.setNblk_params : (s.setNblk v).params = s.params := rfl
@[simp] theorem State.setNblk_host : (s.setNblk v).host = s.host := rfl
end NblkUpdate

section BlkUpdate
variable (s : State) (v : Word)
@[simp] theorem State.setBlk_lastCmd : (s.setBlk v).lastCmd = s.lastCmd := rfl
@[simp] theorem State.setBlk_pending : (s.setBlk v).pending = s.pending := rfl
@[simp] theorem State.setBlk_status : (s.setBlk v).status = s.status := rfl
@[simp] theorem State.setBlk_variant : (s.setBlk v).variant = s.variant := rfl
@[simp] theorem State.setBlk_len : (s.setBlk v).len = s.len := rfl
@[simp] theorem State.setBlk_nblk : (s.setBlk v).nblk = s.nblk := rfl
@[simp] theorem State.setBlk_blk : (s.setBlk v).blk = v := rfl
@[simp] theorem State.setBlk_rotIn : (s.setBlk v).rotIn = s.rotIn := rfl
@[simp] theorem State.setBlk_rotOut : (s.setBlk v).rotOut = s.rotOut := rfl
@[simp] theorem State.setBlk_h : (s.setBlk v).h = s.h := rfl
@[simp] theorem State.setBlk_ws : (s.setBlk v).ws = s.ws := rfl
@[simp] theorem State.setBlk_w : (s.setBlk v).w = s.w := rfl
@[simp] theorem State.setBlk_msg : (s.setBlk v).msg = s.msg := rfl
@[simp] theorem State.setBlk_dig : (s.setBlk v).dig = s.dig := rfl
@[simp] theorem State.setBlk_params : (s.setBlk v).params = s.params := rfl
@[simp] theorem State.setBlk_host : (s.setBlk v).host = s.host := rfl
end BlkUpdate

section RotInUpdate
variable (s : State) (d : DataCell)
@[simp] theorem State.setRotIn_lastCmd : (s.setRotIn d).lastCmd = s.lastCmd := rfl
@[simp] theorem State.setRotIn_pending : (s.setRotIn d).pending = s.pending := rfl
@[simp] theorem State.setRotIn_status : (s.setRotIn d).status = s.status := rfl
@[simp] theorem State.setRotIn_variant : (s.setRotIn d).variant = s.variant := rfl
@[simp] theorem State.setRotIn_len : (s.setRotIn d).len = s.len := rfl
@[simp] theorem State.setRotIn_nblk : (s.setRotIn d).nblk = s.nblk := rfl
@[simp] theorem State.setRotIn_blk : (s.setRotIn d).blk = s.blk := rfl
@[simp] theorem State.setRotIn_rotIn : (s.setRotIn d).rotIn = d := rfl
@[simp] theorem State.setRotIn_rotOut : (s.setRotIn d).rotOut = s.rotOut := rfl
@[simp] theorem State.setRotIn_h : (s.setRotIn d).h = s.h := rfl
@[simp] theorem State.setRotIn_ws : (s.setRotIn d).ws = s.ws := rfl
@[simp] theorem State.setRotIn_w : (s.setRotIn d).w = s.w := rfl
@[simp] theorem State.setRotIn_msg : (s.setRotIn d).msg = s.msg := rfl
@[simp] theorem State.setRotIn_dig : (s.setRotIn d).dig = s.dig := rfl
@[simp] theorem State.setRotIn_params : (s.setRotIn d).params = s.params := rfl
@[simp] theorem State.setRotIn_host : (s.setRotIn d).host = s.host := rfl
end RotInUpdate

section RotOutUpdate
variable (s : State) (d : DataCell)
@[simp] theorem State.setRotOut_lastCmd : (s.setRotOut d).lastCmd = s.lastCmd := rfl
@[simp] theorem State.setRotOut_pending : (s.setRotOut d).pending = s.pending := rfl
@[simp] theorem State.setRotOut_status : (s.setRotOut d).status = s.status := rfl
@[simp] theorem State.setRotOut_variant : (s.setRotOut d).variant = s.variant := rfl
@[simp] theorem State.setRotOut_len : (s.setRotOut d).len = s.len := rfl
@[simp] theorem State.setRotOut_nblk : (s.setRotOut d).nblk = s.nblk := rfl
@[simp] theorem State.setRotOut_blk : (s.setRotOut d).blk = s.blk := rfl
@[simp] theorem State.setRotOut_rotIn : (s.setRotOut d).rotIn = s.rotIn := rfl
@[simp] theorem State.setRotOut_rotOut : (s.setRotOut d).rotOut = d := rfl
@[simp] theorem State.setRotOut_h : (s.setRotOut d).h = s.h := rfl
@[simp] theorem State.setRotOut_ws : (s.setRotOut d).ws = s.ws := rfl
@[simp] theorem State.setRotOut_w : (s.setRotOut d).w = s.w := rfl
@[simp] theorem State.setRotOut_msg : (s.setRotOut d).msg = s.msg := rfl
@[simp] theorem State.setRotOut_dig : (s.setRotOut d).dig = s.dig := rfl
@[simp] theorem State.setRotOut_params : (s.setRotOut d).params = s.params := rfl
@[simp] theorem State.setRotOut_host : (s.setRotOut d).host = s.host := rfl
end RotOutUpdate

section HUpdate
variable (s : State) (f : Vector DataCell 8)
@[simp] theorem State.setH_lastCmd : (s.setH f).lastCmd = s.lastCmd := rfl
@[simp] theorem State.setH_pending : (s.setH f).pending = s.pending := rfl
@[simp] theorem State.setH_status : (s.setH f).status = s.status := rfl
@[simp] theorem State.setH_variant : (s.setH f).variant = s.variant := rfl
@[simp] theorem State.setH_len : (s.setH f).len = s.len := rfl
@[simp] theorem State.setH_nblk : (s.setH f).nblk = s.nblk := rfl
@[simp] theorem State.setH_blk : (s.setH f).blk = s.blk := rfl
@[simp] theorem State.setH_rotIn : (s.setH f).rotIn = s.rotIn := rfl
@[simp] theorem State.setH_rotOut : (s.setH f).rotOut = s.rotOut := rfl
@[simp] theorem State.setH_h : (s.setH f).h = f := rfl
@[simp] theorem State.setH_ws : (s.setH f).ws = s.ws := rfl
@[simp] theorem State.setH_w : (s.setH f).w = s.w := rfl
@[simp] theorem State.setH_msg : (s.setH f).msg = s.msg := rfl
@[simp] theorem State.setH_dig : (s.setH f).dig = s.dig := rfl
@[simp] theorem State.setH_params : (s.setH f).params = s.params := rfl
@[simp] theorem State.setH_host : (s.setH f).host = s.host := rfl
end HUpdate

section WsUpdate
variable (s : State) (f : Vector DataCell 8)
@[simp] theorem State.setWs_lastCmd : (s.setWs f).lastCmd = s.lastCmd := rfl
@[simp] theorem State.setWs_pending : (s.setWs f).pending = s.pending := rfl
@[simp] theorem State.setWs_status : (s.setWs f).status = s.status := rfl
@[simp] theorem State.setWs_variant : (s.setWs f).variant = s.variant := rfl
@[simp] theorem State.setWs_len : (s.setWs f).len = s.len := rfl
@[simp] theorem State.setWs_nblk : (s.setWs f).nblk = s.nblk := rfl
@[simp] theorem State.setWs_blk : (s.setWs f).blk = s.blk := rfl
@[simp] theorem State.setWs_rotIn : (s.setWs f).rotIn = s.rotIn := rfl
@[simp] theorem State.setWs_rotOut : (s.setWs f).rotOut = s.rotOut := rfl
@[simp] theorem State.setWs_h : (s.setWs f).h = s.h := rfl
@[simp] theorem State.setWs_ws : (s.setWs f).ws = f := rfl
@[simp] theorem State.setWs_w : (s.setWs f).w = s.w := rfl
@[simp] theorem State.setWs_msg : (s.setWs f).msg = s.msg := rfl
@[simp] theorem State.setWs_dig : (s.setWs f).dig = s.dig := rfl
@[simp] theorem State.setWs_params : (s.setWs f).params = s.params := rfl
@[simp] theorem State.setWs_host : (s.setWs f).host = s.host := rfl
end WsUpdate

section WUpdate
variable (s : State) (f : Vector DataCell 80)
@[simp] theorem State.setW_lastCmd : (s.setW f).lastCmd = s.lastCmd := rfl
@[simp] theorem State.setW_pending : (s.setW f).pending = s.pending := rfl
@[simp] theorem State.setW_status : (s.setW f).status = s.status := rfl
@[simp] theorem State.setW_variant : (s.setW f).variant = s.variant := rfl
@[simp] theorem State.setW_len : (s.setW f).len = s.len := rfl
@[simp] theorem State.setW_nblk : (s.setW f).nblk = s.nblk := rfl
@[simp] theorem State.setW_blk : (s.setW f).blk = s.blk := rfl
@[simp] theorem State.setW_rotIn : (s.setW f).rotIn = s.rotIn := rfl
@[simp] theorem State.setW_rotOut : (s.setW f).rotOut = s.rotOut := rfl
@[simp] theorem State.setW_h : (s.setW f).h = s.h := rfl
@[simp] theorem State.setW_ws : (s.setW f).ws = s.ws := rfl
@[simp] theorem State.setW_w : (s.setW f).w = f := rfl
@[simp] theorem State.setW_msg : (s.setW f).msg = s.msg := rfl
@[simp] theorem State.setW_dig : (s.setW f).dig = s.dig := rfl
@[simp] theorem State.setW_params : (s.setW f).params = s.params := rfl
@[simp] theorem State.setW_host : (s.setW f).host = s.host := rfl
end WUpdate

section MsgUpdate
variable (s : State) (m : Memory)
@[simp] theorem State.setMsg_lastCmd : (s.setMsg m).lastCmd = s.lastCmd := rfl
@[simp] theorem State.setMsg_pending : (s.setMsg m).pending = s.pending := rfl
@[simp] theorem State.setMsg_status : (s.setMsg m).status = s.status := rfl
@[simp] theorem State.setMsg_variant : (s.setMsg m).variant = s.variant := rfl
@[simp] theorem State.setMsg_len : (s.setMsg m).len = s.len := rfl
@[simp] theorem State.setMsg_nblk : (s.setMsg m).nblk = s.nblk := rfl
@[simp] theorem State.setMsg_blk : (s.setMsg m).blk = s.blk := rfl
@[simp] theorem State.setMsg_rotIn : (s.setMsg m).rotIn = s.rotIn := rfl
@[simp] theorem State.setMsg_rotOut : (s.setMsg m).rotOut = s.rotOut := rfl
@[simp] theorem State.setMsg_h : (s.setMsg m).h = s.h := rfl
@[simp] theorem State.setMsg_ws : (s.setMsg m).ws = s.ws := rfl
@[simp] theorem State.setMsg_w : (s.setMsg m).w = s.w := rfl
@[simp] theorem State.setMsg_msg : (s.setMsg m).msg = m := rfl
@[simp] theorem State.setMsg_dig : (s.setMsg m).dig = s.dig := rfl
@[simp] theorem State.setMsg_params : (s.setMsg m).params = s.params := rfl
@[simp] theorem State.setMsg_host : (s.setMsg m).host = s.host := rfl
end MsgUpdate

section DigUpdate
variable (s : State) (m : Memory)
@[simp] theorem State.setDig_lastCmd : (s.setDig m).lastCmd = s.lastCmd := rfl
@[simp] theorem State.setDig_pending : (s.setDig m).pending = s.pending := rfl
@[simp] theorem State.setDig_status : (s.setDig m).status = s.status := rfl
@[simp] theorem State.setDig_variant : (s.setDig m).variant = s.variant := rfl
@[simp] theorem State.setDig_len : (s.setDig m).len = s.len := rfl
@[simp] theorem State.setDig_nblk : (s.setDig m).nblk = s.nblk := rfl
@[simp] theorem State.setDig_blk : (s.setDig m).blk = s.blk := rfl
@[simp] theorem State.setDig_rotIn : (s.setDig m).rotIn = s.rotIn := rfl
@[simp] theorem State.setDig_rotOut : (s.setDig m).rotOut = s.rotOut := rfl
@[simp] theorem State.setDig_h : (s.setDig m).h = s.h := rfl
@[simp] theorem State.setDig_ws : (s.setDig m).ws = s.ws := rfl
@[simp] theorem State.setDig_w : (s.setDig m).w = s.w := rfl
@[simp] theorem State.setDig_msg : (s.setDig m).msg = s.msg := rfl
@[simp] theorem State.setDig_dig : (s.setDig m).dig = m := rfl
@[simp] theorem State.setDig_params : (s.setDig m).params = s.params := rfl
@[simp] theorem State.setDig_host : (s.setDig m).host = s.host := rfl
end DigUpdate

section HostUpdate
variable (s : State) (p : HostPort)
@[simp] theorem State.setHost_lastCmd : (s.setHost p).lastCmd = s.lastCmd := rfl
@[simp] theorem State.setHost_pending : (s.setHost p).pending = s.pending := rfl
@[simp] theorem State.setHost_status : (s.setHost p).status = s.status := rfl
@[simp] theorem State.setHost_variant : (s.setHost p).variant = s.variant := rfl
@[simp] theorem State.setHost_len : (s.setHost p).len = s.len := rfl
@[simp] theorem State.setHost_nblk : (s.setHost p).nblk = s.nblk := rfl
@[simp] theorem State.setHost_blk : (s.setHost p).blk = s.blk := rfl
@[simp] theorem State.setHost_rotIn : (s.setHost p).rotIn = s.rotIn := rfl
@[simp] theorem State.setHost_rotOut : (s.setHost p).rotOut = s.rotOut := rfl
@[simp] theorem State.setHost_h : (s.setHost p).h = s.h := rfl
@[simp] theorem State.setHost_ws : (s.setHost p).ws = s.ws := rfl
@[simp] theorem State.setHost_w : (s.setHost p).w = s.w := rfl
@[simp] theorem State.setHost_msg : (s.setHost p).msg = s.msg := rfl
@[simp] theorem State.setHost_dig : (s.setHost p).dig = s.dig := rfl
@[simp] theorem State.setHost_params : (s.setHost p).params = s.params := rfl
@[simp] theorem State.setHost_host : (s.setHost p).host = p := rfl
end HostUpdate

section StatusUpdate
variable (st : Status) (e : ErrCode) (b : Bool)
@[simp] theorem Status.withErr_busy : (st.withErr e).busy = st.busy := rfl
@[simp] theorem Status.withErr_done : (st.withErr e).done = st.done := rfl
@[simp] theorem Status.withErr_padded : (st.withErr e).padded = st.padded := rfl
@[simp] theorem Status.withErr_valid : (st.withErr e).valid = st.valid := rfl
@[simp] theorem Status.withErr_ovr : (st.withErr e).ovr = st.ovr := rfl
@[simp] theorem Status.withErr_aerr : (st.withErr e).aerr = st.aerr := rfl
@[simp] theorem Status.withErr_err : (st.withErr e).err = e := rfl
@[simp] theorem Status.withBusy_busy : (st.withBusy b).busy = b := rfl
@[simp] theorem Status.withBusy_done : (st.withBusy b).done = st.done := rfl
@[simp] theorem Status.withBusy_padded : (st.withBusy b).padded = st.padded := rfl
@[simp] theorem Status.withBusy_valid : (st.withBusy b).valid = st.valid := rfl
@[simp] theorem Status.withBusy_ovr : (st.withBusy b).ovr = st.ovr := rfl
@[simp] theorem Status.withBusy_aerr : (st.withBusy b).aerr = st.aerr := rfl
@[simp] theorem Status.withBusy_err : (st.withBusy b).err = st.err := rfl
@[simp] theorem Status.withOvr_busy : (st.withOvr).busy = st.busy := rfl
@[simp] theorem Status.withOvr_done : (st.withOvr).done = st.done := rfl
@[simp] theorem Status.withOvr_padded : (st.withOvr).padded = st.padded := rfl
@[simp] theorem Status.withOvr_valid : (st.withOvr).valid = st.valid := rfl
@[simp] theorem Status.withOvr_ovr : (st.withOvr).ovr = true := rfl
@[simp] theorem Status.withOvr_aerr : (st.withOvr).aerr = st.aerr := rfl
@[simp] theorem Status.withOvr_err : (st.withOvr).err = st.err := rfl
@[simp] theorem Status.withAerr_busy : (st.withAerr).busy = st.busy := rfl
@[simp] theorem Status.withAerr_done : (st.withAerr).done = st.done := rfl
@[simp] theorem Status.withAerr_padded : (st.withAerr).padded = st.padded := rfl
@[simp] theorem Status.withAerr_valid : (st.withAerr).valid = st.valid := rfl
@[simp] theorem Status.withAerr_ovr : (st.withAerr).ovr = st.ovr := rfl
@[simp] theorem Status.withAerr_aerr : (st.withAerr).aerr = true := rfl
@[simp] theorem Status.withAerr_err : (st.withAerr).err = st.err := rfl
@[simp] theorem Status.afterInit_busy : (st.afterInit).busy = st.busy := rfl
@[simp] theorem Status.afterInit_done : (st.afterInit).done = false := rfl
@[simp] theorem Status.afterInit_padded : (st.afterInit).padded = false := rfl
@[simp] theorem Status.afterInit_valid : (st.afterInit).valid = true := rfl
@[simp] theorem Status.afterInit_ovr : (st.afterInit).ovr = st.ovr := rfl
@[simp] theorem Status.afterInit_aerr : (st.afterInit).aerr = st.aerr := rfl
@[simp] theorem Status.afterInit_err : (st.afterInit).err = st.err := rfl
@[simp] theorem Status.afterPad_busy : (st.afterPad).busy = st.busy := rfl
@[simp] theorem Status.afterPad_done : (st.afterPad).done = false := rfl
@[simp] theorem Status.afterPad_padded : (st.afterPad).padded = true := rfl
@[simp] theorem Status.afterPad_valid : (st.afterPad).valid = st.valid := rfl
@[simp] theorem Status.afterPad_ovr : (st.afterPad).ovr = st.ovr := rfl
@[simp] theorem Status.afterPad_aerr : (st.afterPad).aerr = st.aerr := rfl
@[simp] theorem Status.afterPad_err : (st.afterPad).err = st.err := rfl
@[simp] theorem Status.afterFinal_busy : (st.afterFinal).busy = st.busy := rfl
@[simp] theorem Status.afterFinal_done : (st.afterFinal).done = true := rfl
@[simp] theorem Status.afterFinal_padded : (st.afterFinal).padded = st.padded := rfl
@[simp] theorem Status.afterFinal_valid : (st.afterFinal).valid = st.valid := rfl
@[simp] theorem Status.afterFinal_ovr : (st.afterFinal).ovr = st.ovr := rfl
@[simp] theorem Status.afterFinal_aerr : (st.afterFinal).aerr = st.aerr := rfl
@[simp] theorem Status.afterFinal_err : (st.afterFinal).err = st.err := rfl
@[simp] theorem Status.afterClrerr_busy : (st.afterClrerr).busy = st.busy := rfl
@[simp] theorem Status.afterClrerr_done : (st.afterClrerr).done = st.done := rfl
@[simp] theorem Status.afterClrerr_padded : (st.afterClrerr).padded = st.padded := rfl
@[simp] theorem Status.afterClrerr_valid : (st.afterClrerr).valid = st.valid := rfl
@[simp] theorem Status.afterClrerr_ovr : (st.afterClrerr).ovr = false := rfl
@[simp] theorem Status.afterClrerr_aerr : (st.afterClrerr).aerr = false := rfl
@[simp] theorem Status.afterClrerr_err : (st.afterClrerr).err = .none := rfl
@[simp] theorem Status.afterSreset_busy : (st.afterSreset).busy = st.busy := rfl
@[simp] theorem Status.afterSreset_done : (st.afterSreset).done = false := rfl
@[simp] theorem Status.afterSreset_padded : (st.afterSreset).padded = false := rfl
@[simp] theorem Status.afterSreset_valid : (st.afterSreset).valid = false := rfl
@[simp] theorem Status.afterSreset_ovr : (st.afterSreset).ovr = false := rfl
@[simp] theorem Status.afterSreset_aerr : (st.afterSreset).aerr = false := rfl
@[simp] theorem Status.afterSreset_err : (st.afterSreset).err = .none := rfl
end StatusUpdate

end Sys2Proof.Machine
end

