-- ==== Sys2Proof/Laws/Ops.lean ====
section
/-! SUPPORT. What the shared operations can do, said once: the mark check, the raising of an error, the check of
VALID, and sequencing. -/

namespace Sys2Proof.Machine

/-! ### The mark check -/

/-- A read of written cells goes on. -/
theorem needWritten_of_written {cells : List CellId} {s : State} (r : Result)
    (h : ∀ c ∈ cells, s.isWritten c = true) : needWritten cells s r = r := by
  have hf : cells.find? (fun c => !s.isWritten c) = none := by
    rw [List.find?_eq_none]
    intro c hc
    simp [h c hc]
  simp [needWritten, hf]

/-- A read of cells one of which is marked unwritten is a model fault that names such a cell. -/
theorem needWritten_of_unwritten {cells : List CellId} {s : State} (r : Result)
    (h : ∃ c ∈ cells, s.isWritten c = false) :
    ∃ c ∈ cells, s.isWritten c = false ∧ needWritten cells s r = .fault (.unwritten c) := by
  cases hf : cells.find? (fun c => !s.isWritten c) with
  | none =>
    obtain ⟨c, hc, hw⟩ := h
    have := List.find?_eq_none.mp hf c hc
    simp [hw] at this
  | some c =>
    refine ⟨c, List.mem_of_find?_eq_some hf, ?_, by simp [needWritten, hf]⟩
    simpa using List.find?_some hf

/-- All that a mark check can do. -/
theorem needWritten_cases (cells : List CellId) (s : State) (r : Result) :
    ((∀ c ∈ cells, s.isWritten c = true) ∧ needWritten cells s r = r) ∨
      ∃ c ∈ cells, s.isWritten c = false ∧ needWritten cells s r = .fault (.unwritten c) := by
  by_cases h : ∃ c ∈ cells, s.isWritten c = false
  · exact .inr (needWritten_of_unwritten r h)
  · left
    have h' : ∀ c ∈ cells, s.isWritten c = true := by
      intro c hc
      by_contra hne
      exact h ⟨c, hc, by simpa using hne⟩
    exact ⟨h', needWritten_of_written r h'⟩

/-- A mark check that answers a next state has met no unwritten cell. -/
theorem needWritten_next {cells : List CellId} {s t : State} {r : Result} (h : needWritten cells s r = .next t) :
    r = .next t ∧ ∀ c ∈ cells, s.isWritten c = true := by
  rcases needWritten_cases cells s r with ⟨hw, he⟩ | ⟨c, _, _, he⟩
  · exact ⟨he ▸ h, hw⟩
  · rw [he] at h; cases h

theorem mem_cellRange {mk : Nat → CellId} {first count : Nat} {c : CellId} :
    c ∈ cellRange mk first count ↔ ∃ i < count, mk (first + i) = c := by
  simp [cellRange]

/-! ### Errors and sequencing -/

/-- Raising an error changes STATUS.ERR and nothing else (60_exceptions.md R261). -/
theorem raise_eq (e : ErrCode) (s : State) : raise e s = .next (s.setStatus (s.status.withErr e)) := rfl

theorem requireValid_of_valid {s : State} (r : Result) (h : s.status.valid = true) : requireValid s r = r := by
  simp [requireValid, h]

theorem requireValid_of_invalid {s : State} (r : Result) (h : s.status.valid = false) :
    requireValid s r = raise .notInit s := by
  simp [requireValid, h]

@[simp] theorem andThen_next (s : State) (k : State → Result) : andThen (.next s) k = k s := rfl

@[simp] theorem andThen_fault (f : Fault) (k : State → Result) : andThen (.fault f) k = .fault f := rfl

@[simp] theorem andThen_refused (f : Refusal) (k : State → Result) : andThen (.refused f) k = .refused f := rfl

/-- A sequence answers a next state only through a next state of its first part. -/
theorem andThen_eq_next {r : Result} {k : State → Result} {t : State} (h : andThen r k = .next t) :
    ∃ s, r = .next s ∧ k s = .next t := by
  cases r with
  | next s => exact ⟨s, rfl, h⟩
  | fault f => cases h
  | refused f => cases h

/-- A sequence faults in its first part or in its second. -/
theorem andThen_eq_fault {r : Result} {k : State → Result} {f : Fault} (h : andThen r k = .fault f) :
    r = .fault f ∨ ∃ s, r = .next s ∧ k s = .fault f := by
  cases r with
  | next s => exact .inr ⟨s, rfl, h⟩
  | fault g => exact .inl h
  | refused g => cases h

theorem andThen_assoc (r : Result) (k l : State → Result) :
    andThen (andThen r k) l = andThen r fun s => andThen (k s) l := by
  cases r <;> rfl

end Sys2Proof.Machine
end

