-- ==== Sys2Proof/Laws/Commands.lean ====
section
/-! SUPPORT. What the parts of the commands can do, said once: how many words and bytes they write, when their reads
meet no unwritten cell, and which fields a part that answers a next state may have changed. -/

namespace Sys2Proof.Machine

/-! ### Lengths -/

theorem wsinitWords_length (s : State) : (wsinitWords s).length = stateWords s.variant := by simp [wsinitWords]

theorem chainWords_length (s : State) : (chainWords s).length = stateWords s.variant := by simp [chainWords]

theorem roundWords_length (t : Nat) (s : State) : (roundWords t s).length = stateWords s.variant := by
  unfold roundWords
  split <;> rename_i h <;> simp [h, stateWords, Work5.toList, Work8.toList]

theorem extend_length {w : Nat} (next : List (BitVec w) → BitVec w) (count : Nat) (acc : List (BitVec w)) :
    (extend next count acc).length = count + acc.length := by
  induction count generalizing acc with
  | zero => simp [extend]
  | succ count ih => simp [extend, ih]; omega

theorem schedule_length {w : Nat} (next : List (BitVec w) → BitVec w) {r : Nat} (block : List (BitVec w))
    (hb : block.length = 16) (hr : 16 ≤ r) : (schedule next r block).length = r := by
  simp [schedule, extend_length, hb]; omega

theorem blockWords_length (w : Nat) (s : State) : (blockWords w s).length = 16 := by simp [blockWords]

theorem scheduleWords_length (s : State) : (scheduleWords s).length = rounds s.variant := by
  unfold scheduleWords
  split <;> rename_i h <;> simp [h, schedule_length, blockWords_length, rounds]

theorem initWords_length (v : Variant) : (initWords v).length = 8 := by cases v <;> rfl

theorem zeroCount_lt (v : Variant) (len : Nat) : zeroCount v len < blockBytes v :=
  Nat.mod_lt _ (by cases v <;> simp [blockBytes])

theorem paddingBytes_length (v : Variant) (len : Nat) : len + (paddingBytes v len).length = padLen v len := by
  simp [paddingBytes, padLen, bytesBE_length]; omega

theorem digestImage_length (s : State) : (digestImage s).length = 64 := by
  have h : digestBytes s.variant ≤ 64 := by cases s.variant <;> decide
  simp [digestImage, List.length_flatMap, bytesBE_length, digestBytes] at h ⊢
  omega

theorem stateWords_le (v : Variant) : stateWords v ≤ 8 := by cases v <;> decide

theorem rounds_le (v : Variant) : rounds v ≤ 80 := by cases v <;> decide

/-! ### Reads of written cells -/

theorem hRange_written {s : State} {n : Nat} :
    (∀ c ∈ cellRange .h 0 n, s.isWritten c = true) ↔ ∀ i < n, cellWritten s.h i = true := by
  simp [cellRange, State.isWritten]

theorem wsRange_written {s : State} {n : Nat} :
    (∀ c ∈ cellRange .ws 0 n, s.isWritten c = true) ↔ ∀ i < n, cellWritten s.ws i = true := by
  simp [cellRange, State.isWritten]

theorem roundReads_written {t : Nat} {s : State} :
    (∀ c ∈ roundReads t s, s.isWritten c = true) ↔ cellWritten s.w t = true ∧ s.WorkWritten := by
  rw [roundReads, List.forall_mem_cons, wsRange_written]
  rfl

theorem chainReads_written {s : State} :
    (∀ c ∈ chainReads s, s.isWritten c = true) ↔ s.HashWritten ∧ s.WorkWritten := by
  simp only [chainReads, List.forall_mem_append, hRange_written, wsRange_written]

theorem expandReads_written {s : State} :
    (∀ c ∈ expandReads s, s.isWritten c = true) ↔ s.BlockWritten := by
  simp only [expandReads, mem_cellRange]
  constructor
  · intro h a hhi hlo
    have := h (.msg a) ⟨a - blockStart s, by omega, by congr 1; omega⟩
    simpa [State.isWritten] using this
  · rintro h c ⟨i, hi, rfl⟩
    exact h _ (by omega) (by omega)

/-! ### The parts on written cells -/

theorem performExpand_eq {s : State} (h : s.BlockWritten) : performExpand s = .next (expandEffect s) :=
  needWritten_of_written _ (expandReads_written.mpr h)

theorem performWsinit_eq {s : State} (h : s.HashWritten) :
    performWsinit s = .next (s.setWs (writeFirst s.ws (wsinitWords s))) :=
  needWritten_of_written _ (hRange_written.mpr h)

theorem performRound_eq {t : Nat} {s : State} (h : s.WorkWritten) (hw : cellWritten s.w t = true) :
    performRound t s = .next (s.setWs (writeFirst s.ws (roundWords t s))) :=
  needWritten_of_written _ (roundReads_written.mpr ⟨hw, h⟩)

theorem performChain_eq {s : State} (h : s.HashWritten) (hw : s.WorkWritten) :
    performChain s = .next (s.setH (writeFirst s.h (chainWords s))) :=
  needWritten_of_written _ (chainReads_written.mpr ⟨h, hw⟩)

theorem performFinal_eq {s : State} (h : s.HashWritten) :
    performFinal s = .next ((s.setDig (s.dig.writeBytes 0 (digestImage s))).setStatus s.status.afterFinal) :=
  needWritten_of_written _ (hRange_written.mpr h)

/-! ### What a part may change -/

/-- `t` differs from `s` in W, WS, H and BLK alone, and no unwritten mark has come back: what EXPAND, WSINIT, ROUND,
CHAIN and their compositions do (20_memory.md R73). -/
structure DataStep (s t : State) : Prop where
  frame : t = (((s.setW t.w).setWs t.ws).setH t.h).setBlk t.blk
  marksH : ∀ i, cellWritten s.h i = true → cellWritten t.h i = true
  marksWs : ∀ i, cellWritten s.ws i = true → cellWritten t.ws i = true
  marksW : ∀ i, cellWritten s.w i = true → cellWritten t.w i = true

namespace DataStep

variable {s t u : State}

theorem refl (s : State) : DataStep s s := ⟨rfl, fun _ h => h, fun _ h => h, fun _ h => h⟩

theorem trans (h : DataStep s t) (k : DataStep t u) : DataStep s u :=
  ⟨k.frame.trans (by rw [h.frame]; simp only [State.setW, State.setWs, State.setH, State.setBlk]), fun i hi => k.marksH i (h.marksH i hi), fun i hi => k.marksWs i (h.marksWs i hi),
    fun i hi => k.marksW i (h.marksW i hi)⟩

theorem variant (h : DataStep s t) : t.variant = s.variant := by rw [h.frame]; rfl
theorem status (h : DataStep s t) : t.status = s.status := by rw [h.frame]; rfl
theorem nblk (h : DataStep s t) : t.nblk = s.nblk := by rw [h.frame]; rfl
theorem len (h : DataStep s t) : t.len = s.len := by rw [h.frame]; rfl
theorem msg (h : DataStep s t) : t.msg = s.msg := by rw [h.frame]; rfl
theorem dig (h : DataStep s t) : t.dig = s.dig := by rw [h.frame]; rfl
theorem rotIn (h : DataStep s t) : t.rotIn = s.rotIn := by rw [h.frame]; rfl
theorem rotOut (h : DataStep s t) : t.rotOut = s.rotOut := by rw [h.frame]; rfl
theorem params (h : DataStep s t) : t.params = s.params := by rw [h.frame]; rfl
theorem host (h : DataStep s t) : t.host = s.host := by rw [h.frame]; rfl
theorem pending (h : DataStep s t) : t.pending = s.pending := by rw [h.frame]; rfl
theorem lastCmd (h : DataStep s t) : t.lastCmd = s.lastCmd := by rw [h.frame]; rfl

theorem hashWritten (h : DataStep s t) (hs : s.HashWritten) : t.HashWritten := by
  intro i hi
  rw [h.variant] at hi
  exact h.marksH i (hs i hi)

/-- A cell that is unwritten afterwards was unwritten before. -/
theorem isWritten (h : DataStep s t) {c : CellId} (hc : s.isWritten c = true) : t.isWritten c = true := by
  cases c with
  | rotIn => simpa [State.isWritten, h.rotIn] using hc
  | rotOut => simpa [State.isWritten, h.rotOut] using hc
  | h i => exact h.marksH i hc
  | ws i => exact h.marksWs i hc
  | w i => exact h.marksW i hc
  | msg a => simpa [State.isWritten, h.msg] using hc
  | dig a => simpa [State.isWritten, h.dig] using hc

end DataStep

/-- Sequencing two parts that are data steps. -/
theorem andThen_dataStep {s t : State} {r : Result} {k : State → Result} (h : andThen r k = .next t)
    (hr : ∀ u, r = .next u → DataStep s u) (hk : ∀ u t, k u = .next t → DataStep u t) : DataStep s t := by
  obtain ⟨u, hu, ht⟩ := andThen_eq_next h
  exact (hr u hu).trans (hk u t ht)

theorem expandEffect_dataStep (s : State) : DataStep s (expandEffect s) :=
  ⟨rfl, fun _ h => h, fun _ h => h, fun _ h => cellWritten_writeFirst_of _ h⟩

theorem performExpand_dataStep {s t : State} (h : performExpand s = .next t) : DataStep s t := by
  have := (needWritten_next h).1
  cases this
  exact expandEffect_dataStep s

theorem setWs_dataStep (s : State) (vs : List Word) : DataStep s (s.setWs (writeFirst s.ws vs)) :=
  ⟨rfl, fun _ h => h, fun _ h => cellWritten_writeFirst_of _ h, fun _ h => h⟩

theorem performWsinit_dataStep {s t : State} (h : performWsinit s = .next t) : DataStep s t := by
  have := (needWritten_next h).1
  cases this
  exact setWs_dataStep s _

theorem performRound_dataStep {k : Nat} {s t : State} (h : performRound k s = .next t) : DataStep s t := by
  have := (needWritten_next h).1
  cases this
  exact setWs_dataStep s _

theorem performChain_dataStep {s t : State} (h : performChain s = .next t) : DataStep s t := by
  have := (needWritten_next h).1
  cases this
  exact ⟨rfl, fun _ h => cellWritten_writeFirst_of _ h, fun _ h => h, fun _ h => h⟩

theorem performRounds_dataStep {count first : Nat} {s t : State} (h : performRounds count first s = .next t) :
    DataStep s t := by
  induction count generalizing first s t with
  | zero => cases h; exact DataStep.refl _
  | succ count ih => exact andThen_dataStep h (fun _ => performRound_dataStep) (fun _ _ => ih)

theorem performCompress_dataStep {s t : State} (h : performCompress s = .next t) : DataStep s t :=
  andThen_dataStep h
    (fun _ hu => andThen_dataStep hu (fun _ => performWsinit_dataStep) (fun _ _ => performRounds_dataStep))
    (fun _ _ => performChain_dataStep)

theorem performStep_dataStep {s t : State} (h : performStep s = .next t) : DataStep s t :=
  andThen_dataStep h
    (fun _ hu => andThen_dataStep hu (fun _ => performExpand_dataStep) (fun _ _ => performCompress_dataStep))
    (fun _ _ hu => by cases hu; exact ⟨rfl, fun _ h => h, fun _ h => h, fun _ h => h⟩)

theorem performSteps_dataStep {count : Nat} {s t : State} (h : performSteps count s = .next t) : DataStep s t := by
  induction count generalizing s t with
  | zero => cases h; exact DataStep.refl _
  | succ count ih => exact andThen_dataStep h (fun _ => performStep_dataStep) (fun _ _ => ih)

/-! ### What a fault names -/

/-- A result that faults names a cell that is unwritten in `s`. -/
def FaultsOnUnwritten (s : State) (r : Result) : Prop :=
  ∀ f, r = .fault f → ∃ c, f = .unwritten c ∧ s.isWritten c = false

theorem needWritten_faults {cells : List CellId} {s u : State} : FaultsOnUnwritten s (needWritten cells s (.next u)) := by
  intro f h
  rcases needWritten_cases cells s (.next u) with ⟨_, he⟩ | ⟨c, _, hc, he⟩
  · rw [he] at h; cases h
  · rw [he] at h; cases h; exact ⟨c, rfl, hc⟩

/-- A sequence of data steps faults on a cell that is unwritten before the first of them. -/
theorem andThen_faults {s : State} {r : Result} {k : State → Result} (hr : FaultsOnUnwritten s r)
    (hd : ∀ u, r = .next u → DataStep s u) (hk : ∀ u, FaultsOnUnwritten u (k u)) :
    FaultsOnUnwritten s (andThen r k) := by
  intro f h
  rcases andThen_eq_fault h with h | ⟨u, hu, h⟩
  · exact hr f h
  · obtain ⟨c, rfl, hc⟩ := hk u f h
    refine ⟨c, rfl, ?_⟩
    by_contra hne
    simp [(hd u hu).isWritten (by simpa using hne)] at hc

theorem performRounds_faults (count first : Nat) (s : State) :
    FaultsOnUnwritten s (performRounds count first s) := by
  induction count generalizing first s with
  | zero => intro f h; cases h
  | succ count ih =>
    exact andThen_faults needWritten_faults (fun _ => performRound_dataStep) (fun u => ih (first + 1) u)

theorem performCompress_faults (s : State) : FaultsOnUnwritten s (performCompress s) :=
  andThen_faults
    (andThen_faults needWritten_faults (fun _ => performWsinit_dataStep) fun _ => performRounds_faults _ _ _)
    (fun _ hu => andThen_dataStep hu (fun _ => performWsinit_dataStep) fun _ _ => performRounds_dataStep)
    fun _ => needWritten_faults

theorem performStep_faults (s : State) : FaultsOnUnwritten s (performStep s) :=
  andThen_faults
    (andThen_faults needWritten_faults (fun _ => performExpand_dataStep) performCompress_faults)
    (fun _ hu => andThen_dataStep hu (fun _ => performExpand_dataStep) fun _ _ => performCompress_dataStep)
    fun _ f h => by cases h

theorem performSteps_faults (count : Nat) (s : State) : FaultsOnUnwritten s (performSteps count s) := by
  induction count generalizing s with
  | zero => intro f h; cases h
  | succ count ih => exact andThen_faults (performStep_faults s) (fun _ => performStep_dataStep) ih

/-! ### Nothing is refused -/

/-- A result that is no refusal. -/
def NotRefused (r : Result) : Prop := ∀ q, r ≠ .refused q

theorem needWritten_notRefused {cells : List CellId} {s u : State} : NotRefused (needWritten cells s (.next u)) := by
  intro q h
  rcases needWritten_cases cells s (.next u) with ⟨_, he⟩ | ⟨c, _, _, he⟩ <;> rw [he] at h <;> cases h

theorem andThen_notRefused {r : Result} {k : State → Result} (hr : NotRefused r) (hk : ∀ u, NotRefused (k u)) :
    NotRefused (andThen r k) := by
  cases r with
  | next s => exact hk s
  | fault f => intro q h; cases h
  | refused q => exact absurd rfl (hr q)

theorem performRounds_notRefused (count first : Nat) (s : State) : NotRefused (performRounds count first s) := by
  induction count generalizing first s with
  | zero => intro q h; cases h
  | succ count ih => exact andThen_notRefused needWritten_notRefused fun u => ih (first + 1) u

theorem performSteps_notRefused (count : Nat) (s : State) : NotRefused (performSteps count s) := by
  induction count generalizing s with
  | zero => intro q h; cases h
  | succ count ih =>
    refine andThen_notRefused (andThen_notRefused (andThen_notRefused needWritten_notRefused fun u => ?_) fun u q h => ?_) ih
    · exact andThen_notRefused (andThen_notRefused needWritten_notRefused fun _ => performRounds_notRefused _ _ _)
        fun _ => needWritten_notRefused
    · cases h

/-! ### Completion on written cells -/

theorem performRounds_completes {count first : Nat} {s : State} (hws : s.WorkWritten)
    (hw : ∀ i, first ≤ i → i < first + count → cellWritten s.w i = true) :
    ∃ t, performRounds count first s = .next t ∧ t = s.setWs t.ws ∧ t.WorkWritten := by
  induction count generalizing first s with
  | zero => exact ⟨s, rfl, rfl, hws⟩
  | succ count ih =>
    have h1 := performRound_eq hws (hw first (by omega) (by omega))
    have hws' : (s.setWs (writeFirst s.ws (roundWords first s))).WorkWritten :=
      fun i hi => cellWritten_writeFirst_of _ (hws i hi)
    obtain ⟨t, ht, hf, hwt⟩ := ih (first := first + 1) hws' fun i hi hi' => hw i (by omega) (by omega)
    refine ⟨t, ?_, ?_, hwt⟩
    · simp only [performRounds, h1, andThen_next, ht]
    · rw [hf]; rfl

theorem wsinit_workWritten (s : State) : (s.setWs (writeFirst s.ws (wsinitWords s))).WorkWritten := by
  intro i hi
  have hi' : i < stateWords s.variant := hi
  have := stateWords_le s.variant
  simp only [State.setWs_ws, cellWritten_writeFirst, wsinitWords_length]
  rw [if_pos ⟨hi', by omega⟩]

theorem performCompress_completes {s : State} (hh : s.HashWritten) (hw : s.ScheduleWritten) :
    ∃ t, performCompress s = .next t ∧ t = (s.setWs t.ws).setH t.h ∧ t.WorkWritten ∧
      t.h = writeFirst s.h (chainWords (s.setWs t.ws)) := by
  obtain ⟨u, hu, hf, hwu⟩ := performRounds_completes (first := 0) (wsinit_workWritten s)
    (count := rounds s.variant) fun i _ hi => hw i (by omega)
  have hu' : u = s.setWs u.ws := by rw [hf]; rfl
  have hhu : u.HashWritten := by rw [hu']; exact hh
  have hc := performChain_eq hhu hwu
  refine ⟨u.setH (writeFirst u.h (chainWords u)), ?_, ?_, ?_, ?_⟩
  · simp only [performCompress, performWsinit_eq hh, andThen_next, State.setWs_variant, hu, hc]
  · rw [hu']; rfl
  · exact hwu
  · rw [hu']; rfl

theorem expand_scheduleWritten (s : State) : (expandEffect s).ScheduleWritten := by
  intro i hi
  have hi' : i < rounds s.variant := hi
  have := rounds_le s.variant
  simp only [expandEffect, State.setW_w, cellWritten_writeFirst, scheduleWords_length]
  rw [if_pos ⟨hi', by omega⟩]

theorem performStep_completes {s : State} (hb : s.BlockWritten) (hh : s.HashWritten) :
    ∃ t, performStep s = .next t ∧ DataStep s t ∧ t.blk = s.blk + 1#64 := by
  obtain ⟨t, ht, hf, -, -⟩ := performCompress_completes (s := expandEffect s) hh (expand_scheduleWritten s)
  have h : performStep s = .next (advanceBlk t) := by simp only [performStep, performExpand_eq hb, andThen_next, ht]
  refine ⟨advanceBlk t, h, performStep_dataStep h, ?_⟩
  rw [hf]; rfl

theorem performSteps_completes {count : Nat} {s : State} (hh : s.HashWritten)
    (hfit : s.blk.toNat + count < 2 ^ 64)
    (hm : s.MsgWritten (s.blk.toNat * blockBytes s.variant) ((s.blk.toNat + count) * blockBytes s.variant)) :
    ∃ t, performSteps count s = .next t ∧ DataStep s t ∧ t.blk.toNat = s.blk.toNat + count := by
  induction count generalizing s with
  | zero => exact ⟨s, rfl, DataStep.refl s, rfl⟩
  | succ count ih =>
    have hb : s.BlockWritten := by
      intro a ha hlo
      refine hm a ?_ hlo
      have : (s.blk.toNat + 1) * blockBytes s.variant ≤ (s.blk.toNat + (count + 1)) * blockBytes s.variant :=
        Nat.mul_le_mul_right _ (by omega)
      simp only [blockStart] at ha
      rw [Nat.add_mul] at this
      omega
    obtain ⟨u, hu, hd, hblk⟩ := performStep_completes hb hh
    have hn : u.blk.toNat = s.blk.toNat + 1 := by
      rw [hblk, BitVec.toNat_add]
      show (s.blk.toNat + 1) % 2 ^ 64 = _
      exact Nat.mod_eq_of_lt (by omega)
    obtain ⟨t, ht, hd', hn'⟩ := ih (s := u) (hd.hashWritten hh) (by omega) (by
      intro a ha hlo
      rw [hd.msg]
      rw [hn, hd.variant] at ha hlo
      refine hm a (by rw [show s.blk.toNat + (count + 1) = s.blk.toNat + 1 + count by omega]; exact ha) ?_
      exact Nat.le_trans (Nat.mul_le_mul_right _ (by omega)) hlo)
    exact ⟨t, by simp only [performSteps, hu, andThen_next, ht], hd.trans hd', by omega⟩

end Sys2Proof.Machine
end

