-- ==== Sys2Proof/Laws/Decode.lean ====
section
/-! SUPPORT. What the decoder can do, said once: the row that an opcode selects, the two ways a word can decode, and
what each format's mask check says about the word's fields. -/

namespace Sys2Proof

/-- The row that a word selects is the row of the command it gives: opcode and format are the command's own. -/
theorem tableRow_some {c : CmdWord} {f : Format} {i : Instr} (h : tableRow c = some (f, i)) :
    opField c = i.opcode ∧ f = i.format := by
  have key : ∀ {op : Nat}, (opField c).toNat = op → op < 256 → opField c = BitVec.ofNat 8 op := by
    intro op h h2
    apply BitVec.eq_of_toNat_eq
    rw [h, BitVec.toNat_ofNat, Nat.mod_eq_of_lt h2]
  unfold tableRow at h
  split at h
  all_goals first
    | (injection h with h
       injection h with h1 h2
       subst h1 h2
       rename_i hop
       exact ⟨key hop (by decide), rfl⟩)
    | cases h

/-- A word that decodes passes the mask check of its row (30_encoding.md R97). -/
theorem decode_ok {c : CmdWord} {i : Instr} (h : decode c = .ok i) :
    ∃ f, tableRow c = some (f, i) ∧ c &&& f.mask = matchWord (opField c) := by
  simp only [decode] at h
  split at h
  · cases h
  · rename_i f j hr
    split at h
    · cases h; exact ⟨f, hr, by assumption⟩
    · cases h

/-- What the decoder answers for a word whose opcode selects a row. -/
theorem decode_of_row {c : CmdWord} {f : Format} {i : Instr} (h : tableRow c = some (f, i)) :
    decode c = if c &&& f.mask = matchWord (opField c) then .ok i else .error .reservedField := by
  simp only [decode, h]

/-- The decoder answers 'reserved opcode' exactly where no row is selected (30_encoding.md R98). -/
theorem decode_reservedOpcode {c : CmdWord} : decode c = .error .reservedOpcode ↔ tableRow c = none := by
  simp only [decode]
  split
  · simp [*]
  · rename_i hr
    rw [hr]
    split <;> simp

/-- The mask check of format N: bits 23:0 are zero (30_encoding.md R91). -/
theorem maskCheck_n (c : CmdWord) : c &&& Format.n.mask = matchWord (opField c) ↔ c.extractLsb' 0 24 = 0#24 := by
  constructor
  · intro h
    apply BitVec.eq_of_getLsbD_eq
    intro k hk
    have := congrArg (fun x => BitVec.getLsbD x k) h
    simp only [Format.mask, matchWord, opField, BitVec.getLsbD_and, BitVec.getLsbD_append,
      BitVec.getLsbD_extractLsb'] at this ⊢
    interval_cases k <;> simp at this ⊢ <;> exact this
  · intro h
    apply BitVec.eq_of_getLsbD_eq
    intro k hk
    have := congrArg (fun x => BitVec.getLsbD x k) h
    simp only [Format.mask, matchWord, opField, BitVec.getLsbD_and, BitVec.getLsbD_append,
      BitVec.getLsbD_extractLsb'] at this ⊢
    interval_cases k <;> simp at this ⊢ <;> simp [this]

/-- The mask check of format I: bits 23:8 are zero (30_encoding.md R92). -/
theorem maskCheck_i (c : CmdWord) : c &&& Format.i.mask = matchWord (opField c) ↔ c.extractLsb' 8 16 = 0#16 := by
  constructor
  · intro h
    apply BitVec.eq_of_getLsbD_eq
    intro k hk
    have := congrArg (fun x => BitVec.getLsbD x (8 + k)) h
    simp only [Format.mask, matchWord, opField, BitVec.getLsbD_and, BitVec.getLsbD_append,
      BitVec.getLsbD_extractLsb'] at this ⊢
    interval_cases k <;> simp at this ⊢ <;> exact this
  · intro h
    apply BitVec.eq_of_getLsbD_eq
    intro k hk
    have := congrArg (fun x => BitVec.getLsbD x (k - 8)) h
    simp only [Format.mask, matchWord, opField, BitVec.getLsbD_and, BitVec.getLsbD_append,
      BitVec.getLsbD_extractLsb'] at this ⊢
    interval_cases k <;> simp at this ⊢ <;> simp [this]

/-- The mask check of format V: bits 23:16 and 13:0 are zero (30_encoding.md R93). -/
theorem maskCheck_v (c : CmdWord) : c &&& Format.v.mask = matchWord (opField c) ↔
    c.extractLsb' 16 8 = 0#8 ∧ c.extractLsb' 0 14 = 0#14 := by
  constructor
  · intro h
    constructor
    · apply BitVec.eq_of_getLsbD_eq
      intro k hk
      have := congrArg (fun x => BitVec.getLsbD x (16 + k)) h
      simp only [Format.mask, matchWord, opField, BitVec.getLsbD_and, BitVec.getLsbD_append,
        BitVec.getLsbD_extractLsb'] at this ⊢
      interval_cases k <;> simp at this ⊢ <;> exact this
    · apply BitVec.eq_of_getLsbD_eq
      intro k hk
      have := congrArg (fun x => BitVec.getLsbD x k) h
      simp only [Format.mask, matchWord, opField, BitVec.getLsbD_and, BitVec.getLsbD_append,
        BitVec.getLsbD_extractLsb'] at this ⊢
      interval_cases k <;> simp at this ⊢ <;> exact this
  · rintro ⟨h, h'⟩
    apply BitVec.eq_of_getLsbD_eq
    intro k hk
    have h1 := congrArg (fun x => BitVec.getLsbD x (k - 16)) h
    have h2 := congrArg (fun x => BitVec.getLsbD x k) h'
    simp only [Format.mask, matchWord, opField, BitVec.getLsbD_and, BitVec.getLsbD_append,
      BitVec.getLsbD_extractLsb'] at h1 h2 ⊢
    interval_cases k <;> simp at h1 h2 ⊢ <;> simp [h1, h2]

end Sys2Proof
end

