-- ==== Sys2Proof/Laws/Exec.lean ====
section
/-! SUPPORT. What a command can do, said once: the inversion of exec, from which the facts about every command
follow. -/

namespace Sys2Proof.Machine

/-- The state that a successful FINAL leaves. -/
def finalEffect (s : State) : State :=
  (s.setDig (s.dig.writeBytes 0 (digestImage s))).setStatus s.status.afterFinal

/-- The ways a command can end in a next state, with the conditions under which it does. -/
inductive CommandEnds (i : Instr) (s : State) : State → Prop
  | raised (e : ErrCode) (he : e ≠ .none) : CommandEnds i s (s.setStatus (s.status.withErr e))
  | data {t : State} (h : DataStep s t) (hi : ∀ v, i ≠ .run v) (hp : i ≠ .pad) : CommandEnds i s t
  | rotated (r : Word) (hi : ∀ v, i ≠ .run v) (hp : i ≠ .pad) : CommandEnds i s (s.setRotOut (DataCell.ofWord r))
  | inited (v : Variant) (hi : ∀ v, i ≠ .run v) (hp : i ≠ .pad) : CommandEnds i s (initEffect v s)
  | padded (hi : i = .pad) (hv : s.status.valid = true) (hf : fits s.variant s = true) :
    CommandEnds i s (padEffect s)
  | finalised (hv : s.status.valid = true) (hi : ∀ v, i ≠ .run v) (hp : i ≠ .pad) : CommandEnds i s (finalEffect s)
  | cleared (hi : i = .clrerr) : CommandEnds i s (s.setStatus s.status.afterClrerr)
  | restarted (hi : i = .sreset) : CommandEnds i s (sresetEffect s)
  | ran (w : BitVec 2) (hi : i = .run w) (v : Variant) (hv : variantOfCode w = some v) (hf : fits v s = true)
    (u : State) (hu : DataStep (padEffect (initEffect v s)) u)
    (hr : performIterate (padEffect (initEffect v s)) = .next u) : CommandEnds i s (finalEffect u)

theorem requireValid_next {s t : State} {r : Result} (h : requireValid s r = .next t) :
    t = s.setStatus (s.status.withErr .notInit) ∨ s.status.valid = true ∧ r = .next t := by
  unfold requireValid at h
  split at h
  · exact .inr ⟨by assumption, h⟩
  · exact .inl (by rw [raise_eq] at h; cases h; rfl)

/-- A check that raises an error or goes on. -/
theorem ite_raise_next {p : Prop} [Decidable p] {s t : State} {r : Result} {e : ErrCode}
    (h : (if p then r else raise e s) = .next t) :
    t = s.setStatus (s.status.withErr e) ∨ p ∧ r = .next t := by
  split at h
  · exact .inr ⟨by assumption, h⟩
  · exact .inl (by rw [raise_eq] at h; cases h; rfl)

theorem rotateInto_next {w : Nat} {n : BitVec 8} {r : Word} {s t : State} (h : rotateInto w n r s = .next t) :
    t = s.setStatus (s.status.withErr .badShift) ∨ t = s.setRotOut (DataCell.ofWord r) := by
  rcases ite_raise_next h with h | ⟨_, h⟩
  · exact .inl h
  · exact .inr (by have := (needWritten_next h).1; cases this; rfl)

theorem performFinal_next {s t : State} (h : performFinal s = .next t) : t = finalEffect s ∧ s.HashWritten := by
  obtain ⟨h1, h2⟩ := needWritten_next h
  cases h1
  exact ⟨rfl, hRange_written.mp h2⟩

/-- What a command that answers a next state has done. -/
theorem exec_next {i : Instr} {s t : State} (h : exec i s = .next t) : CommandEnds i s t := by
  cases i with
  | nop => cases h; exact .data (DataStep.refl s) (by simp) (by simp)
  | rotl32 n =>
    rcases rotateInto_next h with rfl | rfl
    · exact .raised _ (by decide)
    · exact .rotated _ (by simp) (by simp)
  | rotr32 n =>
    rcases rotateInto_next h with rfl | rfl
    · exact .raised _ (by decide)
    · exact .rotated _ (by simp) (by simp)
  | rotl64 n =>
    rcases rotateInto_next h with rfl | rfl
    · exact .raised _ (by decide)
    · exact .rotated _ (by simp) (by simp)
  | rotr64 n =>
    rcases rotateInto_next h with rfl | rfl
    · exact .raised _ (by decide)
    · exact .rotated _ (by simp) (by simp)
  | init v =>
    simp only [exec, execInit] at h
    split at h
    · cases h; exact .inited _ (by simp) (by simp)
    · rw [raise_eq] at h; cases h; exact .raised _ (by decide)
  | pad =>
    rcases requireValid_next h with rfl | ⟨hv, h⟩
    · exact .raised _ (by decide)
    rcases ite_raise_next h with rfl | ⟨hf, h⟩
    · exact .raised _ (by decide)
    cases h; exact .padded rfl hv hf
  | expand =>
    rcases requireValid_next h with rfl | ⟨hv, h⟩
    · exact .raised _ (by decide)
    rcases ite_raise_next h with rfl | ⟨hf, h⟩
    · exact .raised _ (by decide)
    exact .data (performExpand_dataStep h) (by simp) (by simp)
  | wsinit =>
    rcases requireValid_next h with rfl | ⟨hv, h⟩
    · exact .raised _ (by decide)
    exact .data (performWsinit_dataStep h) (by simp) (by simp)
  | round k =>
    rcases requireValid_next h with rfl | ⟨hv, h⟩
    · exact .raised _ (by decide)
    rcases ite_raise_next h with rfl | ⟨hf, h⟩
    · exact .raised _ (by decide)
    exact .data (performRound_dataStep h) (by simp) (by simp)
  | chain =>
    rcases requireValid_next h with rfl | ⟨hv, h⟩
    · exact .raised _ (by decide)
    exact .data (performChain_dataStep h) (by simp) (by simp)
  | compress =>
    rcases requireValid_next h with rfl | ⟨hv, h⟩
    · exact .raised _ (by decide)
    exact .data (performCompress_dataStep h) (by simp) (by simp)
  | step =>
    rcases requireValid_next h with rfl | ⟨hv, h⟩
    · exact .raised _ (by decide)
    rcases ite_raise_next h with rfl | ⟨hf, h⟩
    · exact .raised _ (by decide)
    exact .data (performStep_dataStep h) (by simp) (by simp)
  | iterate =>
    rcases requireValid_next h with rfl | ⟨hv, h⟩
    · exact .raised _ (by decide)
    rcases ite_raise_next h with rfl | ⟨hf, h⟩
    · exact .raised _ (by decide)
    exact .data (performSteps_dataStep h) (by simp) (by simp)
  | final =>
    rcases requireValid_next h with rfl | ⟨hv, h⟩
    · exact .raised _ (by decide)
    rw [(performFinal_next h).1]
    exact .finalised hv (by simp) (by simp)
  | run w =>
    simp only [exec, execRun] at h
    split at h
    · rename_i v hv
      rcases ite_raise_next h with rfl | ⟨hf, h⟩
      · exact .raised _ (by decide)
      obtain ⟨u, hu, h⟩ := andThen_eq_next h
      rw [(performFinal_next h).1]
      exact .ran w rfl v hv hf u (performSteps_dataStep hu) hu
    · rw [raise_eq] at h; cases h; exact .raised _ (by decide)
  | clrerr => cases h; exact .cleared rfl
  | sreset => cases h; exact .restarted rfl

/-! ### Faults and refusals of a command -/

theorem requireValid_faults {s : State} {r : Result} (h : FaultsOnUnwritten s r) :
    FaultsOnUnwritten s (requireValid s r) := by
  unfold requireValid
  split
  · exact h
  · intro f hf; cases hf

theorem ite_raise_faults {p : Prop} [Decidable p] {s : State} {r : Result} {e : ErrCode}
    (h : FaultsOnUnwritten s r) : FaultsOnUnwritten s (if p then r else raise e s) := by
  split
  · exact h
  · intro f hf; cases hf

/-- INIT and PAD write no DIG cell. -/
theorem padInit_dig (v : Variant) (s : State) : (padEffect (initEffect v s)).dig = s.dig := by
  simp only [padEffect, initEffect, State.setStatus, State.setBlk, State.setNblk, State.setMsg]
  rfl

/-- A cell that is unwritten after INIT and PAD was unwritten before. -/
theorem isWritten_padInit {v : Variant} {s : State} {c : CellId} (h : s.isWritten c = true) :
    (padEffect (initEffect v s)).isWritten c = true := by
  cases c with
  | h i => exact cellWritten_writeFirst_of _ h
  | msg a => exact Memory.isSome_read_writeBytes _ _ _ h
  | rotIn => exact h
  | rotOut => exact h
  | ws i => exact h
  | w i => exact h
  | dig a =>
    have hr : ((padEffect (initEffect v s)).dig.read a).isSome = true := by
      rw [padInit_dig]
      exact h
    exact hr

theorem initEffect_hashWritten (v : Variant) (s : State) (i : Nat) (hi : i < 8) :
    cellWritten (initEffect v s).h i = true := by
  show cellWritten (writeFirst s.h (initWords v)) i = true
  rw [cellWritten_writeFirst, initWords_length, if_pos ⟨hi, hi⟩]

theorem performRun_faults (v : Variant) (s : State) : FaultsOnUnwritten s (performRun v s) := by
  intro f h
  have hpad : ∀ c, (padEffect (initEffect v s)).isWritten c = false → s.isWritten c = false := by
    intro c hc
    by_contra hne
    simp [isWritten_padInit (v := v) (by simpa using hne)] at hc
  obtain ⟨c, rfl, hc⟩ := andThen_faults (performSteps_faults _ (padEffect (initEffect v s)))
    (fun _ => performSteps_dataStep) (fun _ => needWritten_faults) f h
  exact ⟨c, rfl, hpad c hc⟩

/-- A command faults on an unwritten cell only (60_exceptions.md R266). -/
theorem exec_faults (i : Instr) (s : State) : FaultsOnUnwritten s (exec i s) := by
  cases i with
  | nop => intro f h; cases h
  | rotl32 n => exact ite_raise_faults needWritten_faults
  | rotr32 n => exact ite_raise_faults needWritten_faults
  | rotl64 n => exact ite_raise_faults needWritten_faults
  | rotr64 n => exact ite_raise_faults needWritten_faults
  | init v => intro f h; simp only [exec, execInit] at h; split at h <;> cases h
  | pad => exact requireValid_faults (ite_raise_faults fun f h => by cases h)
  | expand => exact requireValid_faults (ite_raise_faults needWritten_faults)
  | wsinit => exact requireValid_faults needWritten_faults
  | round k => exact requireValid_faults (ite_raise_faults needWritten_faults)
  | chain => exact requireValid_faults needWritten_faults
  | compress => exact requireValid_faults (performCompress_faults s)
  | step => exact requireValid_faults (ite_raise_faults (performStep_faults s))
  | iterate => exact requireValid_faults (ite_raise_faults (performSteps_faults _ s))
  | final => exact requireValid_faults needWritten_faults
  | run w =>
    intro f h
    simp only [exec, execRun] at h
    split at h
    · exact ite_raise_faults (performRun_faults _ s) f h
    · cases h
  | clrerr => intro f h; cases h
  | sreset => intro f h; cases h

theorem requireValid_notRefused {s : State} {r : Result} (h : NotRefused r) : NotRefused (requireValid s r) := by
  unfold requireValid
  split
  · exact h
  · intro f hf; cases hf

theorem ite_raise_notRefused {p : Prop} [Decidable p] {s : State} {r : Result} {e : ErrCode} (h : NotRefused r) :
    NotRefused (if p then r else raise e s) := by
  split
  · exact h
  · intro f hf; cases hf

theorem performCompress_notRefused (s : State) : NotRefused (performCompress s) :=
  andThen_notRefused (andThen_notRefused needWritten_notRefused fun _ => performRounds_notRefused _ _ _)
    fun _ => needWritten_notRefused

theorem performStep_notRefused (s : State) : NotRefused (performStep s) :=
  andThen_notRefused (andThen_notRefused needWritten_notRefused performCompress_notRefused)
    fun _ f h => by cases h

/-- No command is refused. -/
theorem exec_notRefused (i : Instr) (s : State) : NotRefused (exec i s) := by
  cases i with
  | nop => intro f h; cases h
  | rotl32 n => exact ite_raise_notRefused needWritten_notRefused
  | rotr32 n => exact ite_raise_notRefused needWritten_notRefused
  | rotl64 n => exact ite_raise_notRefused needWritten_notRefused
  | rotr64 n => exact ite_raise_notRefused needWritten_notRefused
  | init v => intro f h; simp only [exec, execInit] at h; split at h <;> cases h
  | pad => exact requireValid_notRefused (ite_raise_notRefused fun f h => by cases h)
  | expand => exact requireValid_notRefused (ite_raise_notRefused needWritten_notRefused)
  | wsinit => exact requireValid_notRefused needWritten_notRefused
  | round k => exact requireValid_notRefused (ite_raise_notRefused needWritten_notRefused)
  | chain => exact requireValid_notRefused needWritten_notRefused
  | compress => exact requireValid_notRefused (performCompress_notRefused s)
  | step => exact requireValid_notRefused (ite_raise_notRefused (performStep_notRefused s))
  | iterate => exact requireValid_notRefused (ite_raise_notRefused (performSteps_notRefused _ s))
  | final => exact requireValid_notRefused needWritten_notRefused
  | run w =>
    intro f h
    simp only [exec, execRun] at h
    split at h
    · exact ite_raise_notRefused (andThen_notRefused (performSteps_notRefused _ _) fun _ => needWritten_notRefused) f h
    · cases h
  | clrerr => intro f h; cases h
  | sreset => intro f h; cases h

end Sys2Proof.Machine
end

