-- ==== Sys2Proof/Laws/PerInstr.lean ====
section
/-! SUPPORT. What holds of every command as syntax, one lemma per constructor: its word is a word of its own row of
the opcode table. -/

namespace Sys2Proof.Laws.RowOf

/-- The word of a command carries the command's opcode, and outside the operand of its format it is the row's match
word (30_encoding.md R91 to R93, R96). -/
def Statement (i : Instr) : Prop :=
  opField (encode i) = i.opcode ∧ encode i &&& i.format.mask = matchWord i.opcode

theorem nop : Statement .nop := by unfold Statement; decide

theorem rotl32 : ∀ n, Statement (.rotl32 n) := by unfold Statement; decide +kernel

theorem rotr32 : ∀ n, Statement (.rotr32 n) := by unfold Statement; decide +kernel

theorem rotl64 : ∀ n, Statement (.rotl64 n) := by unfold Statement; decide +kernel

theorem rotr64 : ∀ n, Statement (.rotr64 n) := by unfold Statement; decide +kernel

theorem init : ∀ v, Statement (.init v) := by unfold Statement; decide +kernel

theorem pad : Statement .pad := by unfold Statement; decide

theorem expand : Statement .expand := by unfold Statement; decide

theorem wsinit : Statement .wsinit := by unfold Statement; decide

theorem round : ∀ t, Statement (.round t) := by unfold Statement; decide +kernel

theorem chain : Statement .chain := by unfold Statement; decide

theorem compress : Statement .compress := by unfold Statement; decide

theorem step : Statement .step := by unfold Statement; decide

theorem iterate : Statement .iterate := by unfold Statement; decide

theorem final : Statement .final := by unfold Statement; decide

theorem run : ∀ v, Statement (.run v) := by unfold Statement; decide +kernel

theorem clrerr : Statement .clrerr := by unfold Statement; decide

theorem sreset : Statement .sreset := by unfold Statement; decide

end Sys2Proof.Laws.RowOf
end

