-- ==== Sys2Proof/Tests/Slice0.lean ====
section
/-! SUPPORT. Tests: the well-formedness checks, one word of each command written out from its encoding, one or two
single steps of each command with results from spec/95_test_vectors.md, and for each statement with hypotheses a
state and operands that meet them. -/

set_option Elab.async false

open Sys2Proof Sys2Proof.Machine

namespace Sys2Proof.Tests

/-! ### Helpers -/

/-- The outcome is a next state with the property. -/
def nextHas (r : Result) (p : State → Bool) : Bool :=
  match r with
  | .next s => p s
  | .fault _ => false
  | .refused _ => false

/-- The outcome is the model fault on the cell. -/
def faultsOn (r : Result) (c : CellId) : Bool :=
  match r with
  | .next _ => false
  | .fault f => decide (f = .unwritten c)
  | .refused _ => false

/-- The state an outcome leads to, or the state given. -/
def nextOr (r : Result) (s : State) : State :=
  match r with
  | .next t => t
  | .fault _ => s
  | .refused _ => s

/-- The state after a command. -/
def after (i : Instr) (s : State) : State := nextOr (exec i s) s

/-- The block with other parameters. -/
def withCap (cap : Nat) : State := State.resetWith { msgCap := cap, schedRot := true } HostPort.idle

/-- The block after reset with ROT_IN = x, and ROT_OUT as the rows of L2-1 have it. -/
def rotState (x : Word) : State :=
  (State.reset.setRotIn (DataCell.ofWord x)).setRotOut (DataCell.ofWord 0x1111111111111111#64)

/-- The block after reset with "abc" in MSG and LEN = 3. -/
def abc : State := (State.reset.setMsg (State.reset.msg.writeBytes 0 [0x61#8, 0x62#8, 0x63#8])).setLen 3#64

/-- "abc" after INIT v and PAD. -/
def abcPadded (v : BitVec 2) : State := after .pad (after (.init v) abc)

/-- "abc" after INIT v, PAD and EXPAND. -/
def abcExpanded (v : BitVec 2) : State := after .expand (abcPadded v)

/-- "abc" after INIT v, PAD, EXPAND and WSINIT. -/
def abcWork (v : BitVec 2) : State := after .wsinit (abcExpanded v)

/-- The state with a standing BAD_SHIFT error and both host flags set: STATUS = 0x330. -/
def errState : State :=
  State.reset.setStatus { Status.zero with ovr := true, aerr := true, err := .badShift }

/-- The state with the command word latched, whatever agent is next. -/
def latched (c : CmdWord) (s : State) : State := s.withFetchWord 32 c.toNat

/-- The values of the first cells of a register file. -/
def firstValues {n : Nat} (f : Vector DataCell n) (k : Nat) : List Word := (List.range k).map (cellValue f)

/-- The bytes of a buffer from an address. -/
def bytesFrom (m : Memory) (a k : Nat) : List (Option Byte) := (List.range k).map fun j => m.read (a + j)

/-! ### Well-formedness: what each check refuses -/

theorem test_wf_shift_zero : (Instr.rotl32 0#8).wellFormed = false := by decide
theorem test_wf_shift32_width : (Instr.rotr32 32#8).wellFormed = false := by decide
theorem test_wf_shift64_width : (Instr.rotl64 64#8).wellFormed = false := by decide
theorem test_wf_shift64_zero : (Instr.rotr64 0#8).wellFormed = false := by decide
theorem test_wf_round : (Instr.round 80#8).wellFormed = false := by decide
theorem test_wf_variant_init : (Instr.init 3#2).wellFormed = false := by decide
theorem test_wf_variant_run : (Instr.run 3#2).wellFormed = false := by decide
theorem test_wf_accepts_the_ends : [Instr.rotl32 1#8, .rotl32 31#8, .rotr32 31#8, .rotl64 63#8, .rotr64 63#8,
    .round 79#8, .round 0#8, .init 2#2, .run 0#2].all Instr.wellFormed = true := by decide

/-! ### Decoding: words written out bit by bit, OP | RSV0 | VAR | RSV1 | IMM8 (30_encoding.md R90, R96) -/

theorem test_decode_nop : decode 0b00000000_00000000_00_000000_00000000#32 = .ok .nop := by decide
theorem test_decode_rotl32 : decode 0b00000001_00000000_00_000000_00011111#32 = .ok (.rotl32 31#8) := by decide
theorem test_decode_rotr32 : decode 0b00000010_00000000_00_000000_00000100#32 = .ok (.rotr32 4#8) := by decide
theorem test_decode_rotl64 : decode 0b00000011_00000000_00_000000_00111111#32 = .ok (.rotl64 63#8) := by decide
theorem test_decode_rotr64 : decode 0b00000100_00000000_00_000000_00010001#32 = .ok (.rotr64 17#8) := by decide
theorem test_decode_init : decode 0b00010000_00000000_10_000000_00000000#32 = .ok (.init 2#2) := by decide
theorem test_decode_pad : decode 0b00010001_00000000_00_000000_00000000#32 = .ok .pad := by decide
theorem test_decode_expand : decode 0b00010010_00000000_00_000000_00000000#32 = .ok .expand := by decide
theorem test_decode_wsinit : decode 0b00010011_00000000_00_000000_00000000#32 = .ok .wsinit := by decide
theorem test_decode_round : decode 0b00010100_00000000_00_000000_01001111#32 = .ok (.round 79#8) := by decide
theorem test_decode_chain : decode 0b00010101_00000000_00_000000_00000000#32 = .ok .chain := by decide
theorem test_decode_compress : decode 0b00010110_00000000_00_000000_00000000#32 = .ok .compress := by decide
theorem test_decode_step : decode 0b00010111_00000000_00_000000_00000000#32 = .ok .step := by decide
theorem test_decode_iterate : decode 0b00011000_00000000_00_000000_00000000#32 = .ok .iterate := by decide
theorem test_decode_final : decode 0b00011001_00000000_00_000000_00000000#32 = .ok .final := by decide
theorem test_decode_run : decode 0b00011010_00000000_01_000000_00000000#32 = .ok (.run 1#2) := by decide
theorem test_decode_clrerr : decode 0b00011110_00000000_00_000000_00000000#32 = .ok .clrerr := by decide
theorem test_decode_sreset : decode 0b00011111_00000000_00_000000_00000000#32 = .ok .sreset := by decide

/-- L2-8: the reserved opcodes and the nonzero reserved fields. -/
theorem test_decode_refuses :
    [decode 0xFF000000#32, decode 0x05000000#32, decode 0x1B000000#32, decode 0x20000000#32] =
      List.replicate 4 (.error .reservedOpcode) ∧
    [decode 0x11000001#32, decode 0x0100C001#32, decode 0x01010001#32, decode 0x0100C000#32, decode 0x14004000#32,
      decode 0x15000100#32] = List.replicate 6 (.error .reservedField) := by decide

/-! ### Single steps (spec/95_test_vectors.md) -/

/-- L2-7. -/
theorem test_nop : nextHas (step (latched 0x00000000#32 State.reset)) (fun t => statusWord t.status == 0#64
    && t.lastCmd == 0#32) = true := by decide +kernel

/-- L2-1. -/
theorem test_rotl32 : nextHas (step (latched 0x01000008#32 (rotState 0xFFFFFFFF12345678#64)))
    (fun t => t.rotOut.val == 0x34567812#64) = true := by decide +kernel

/-- L2-1. -/
theorem test_rotl32_bad_shift : nextHas (step (latched 0x01000020#32 (rotState 0x12345678#64)))
    (fun t => t.rotOut.val == 0x1111111111111111#64 && statusWord t.status == 0x300#64) = true := by decide +kernel

/-- L2-1. -/
theorem test_rotr32 : nextHas (step (latched 0x0200001F#32 (rotState 0x12345678#64)))
    (fun t => t.rotOut.val == 0x2468ACF0#64) = true := by decide +kernel

/-- L2-1. -/
theorem test_rotl64 : nextHas (step (latched 0x0300003F#32 (rotState 0x0123456789ABCDEF#64)))
    (fun t => t.rotOut.val == 0x8091A2B3C4D5E6F7#64) = true := by decide +kernel

/-- L2-1. -/
theorem test_rotr64 : nextHas (step (latched 0x0400003F#32 (rotState 0x0123456789ABCDEF#64)))
    (fun t => t.rotOut.val == 0x02468ACF13579BDE#64) = true := by decide +kernel

/-- L2-6. -/
theorem test_init : nextHas (step (latched 0x10000000#32 State.reset)) (fun t =>
    firstValues t.h 8 == [0x67452301#64, 0xEFCDAB89#64, 0x98BADCFE#64, 0x10325476#64, 0xC3D2E1F0#64, 0#64, 0#64, 0#64]
    && statusWord t.status == 0x08#64) = true := by decide +kernel

/-- L2-6. -/
theorem test_init_reserved_variant : nextHas (step (latched 0x1000C000#32 State.reset))
    (fun t => statusWord t.status == 0x200#64) = true := by decide +kernel

/-- L2-2: B, LEN = 56. -/
theorem test_pad : nextHas (step (latched 0x11000000#32 ((after (.init 1#2) State.reset).setLen 56#64))) (fun t =>
    t.nblk == 2#64 && t.msg.read 55 == none && t.msg.read 56 == some 0x80#8 &&
    bytesFrom t.msg 119 9 == [0x00#8, 0x00#8, 0x00#8, 0x00#8, 0x00#8, 0x00#8, 0x00#8, 0x01#8, 0xC0#8].map some
    && statusWord t.status == 0x0C#64) = true := by decide +kernel

/-- L2-2: C, LEN = 112 with MSG_CAP = 128. -/
theorem test_pad_overflow : nextHas (step (latched 0x11000000#32 ((after (.init 2#2) (withCap 128)).setLen 112#64)))
    (fun t => t.nblk == 0#64 && t.msg == Memory.empty && statusWord t.status == 0x808#64) = true := by decide +kernel

/-- L2-3: A (s = 1), padded "abc". -/
theorem test_expand_A : nextHas (step (latched 0x12000000#32 (abcPadded 0#2)))
    (fun t => cellValue t.w 16 == 0xC2C4C700#64 && cellValue t.w 79 == 0x822E0879#64) = true := by decide +kernel

/-- L2-3: C, padded "abc". -/
theorem test_expand_C : nextHas (step (latched 0x12000000#32 (abcPadded 2#2)))
    (fun t => cellValue t.w 17 == 0x00030000000000C0#64 && cellValue t.w 79 == 0x92AEEED1A7BCF7D2#64) = true := by
  decide +kernel

/-- L2-5: A keeps WS[5..7]. -/
theorem test_wsinit : nextHas (step (latched 0x13000000#32
    ((after (.init 0#2) State.reset).setWs (writeFirst State.reset.ws [0#64, 0#64, 0#64, 0#64, 0#64, 0x55#64, 0x66#64,
      0x77#64]))))
    (fun t => firstValues t.ws 8 == [0x67452301#64, 0xEFCDAB89#64, 0x98BADCFE#64, 0x10325476#64, 0xC3D2E1F0#64,
      0x55#64, 0x66#64, 0x77#64]) = true := by decide +kernel

/-- L2-4: A, ROUND #0. -/
theorem test_round_A : nextHas (step (latched 0x14000000#32 (abcWork 0#2)))
    (fun t => firstValues t.ws 5 == [0x0116FC33#64, 0x67452301#64, 0x7BF36AE2#64, 0x98BADCFE#64, 0x10325476#64])
    = true := by decide +kernel

/-- L2-4: B, ROUND #0. -/
theorem test_round_B : nextHas (step (latched 0x14000000#32 (abcWork 1#2)))
    (fun t => firstValues t.ws 8 == [0x5D6AEBCD#64, 0x6A09E667#64, 0xBB67AE85#64, 0x3C6EF372#64, 0xFA2A4622#64,
      0x510E527F#64, 0x9B05688C#64, 0x1F83D9AB#64]) = true := by decide +kernel

/-- L2-5: B, wrap. -/
theorem test_chain : nextHas (step (latched 0x15000000#32 (((after (.init 1#2) State.reset).setH
    (writeFirst State.reset.h [0xFFFFFFFF#64, 1#64, 0x80000000#64, 0#64, 0#64, 0#64, 0#64, 0#64])).setWs
    (writeFirst State.reset.ws [1#64, 0xFFFFFFFF#64, 0x80000000#64, 5#64, 6#64, 7#64, 8#64, 9#64]))))
    (fun t => firstValues t.h 8 == [0#64, 0#64, 0#64, 5#64, 6#64, 7#64, 8#64, 9#64]) = true := by decide +kernel

/-- L2-5: A (s = 1), "abc". -/
theorem test_compress : nextHas (step (latched 0x16000000#32 (abcExpanded 0#2))) (fun t =>
    firstValues t.h 5 == [0xA9993E36#64, 0x4706816A#64, 0xBA3E2571#64, 0x7850C26C#64, 0x9CD0D89D#64]
    && t.blk == 0#64) = true := by decide +kernel

/-- L2-6: the block of "abc" is its whole message, so that H is the digest. -/
theorem test_step : nextHas (step (latched 0x17000000#32 (abcPadded 1#2))) (fun t =>
    firstValues t.h 8 == [0xBA7816BF#64, 0x8F01CFEA#64, 0x414140DE#64, 0x5DAE2223#64, 0xB00361A3#64, 0x96177A9C#64,
      0xB410FF61#64, 0xF20015AD#64] && t.blk == 1#64) = true := by decide +kernel

/-- L2-8. -/
theorem test_step_no_block : nextHas (step (latched 0x17000000#32 (after (.init 1#2) State.reset)))
    (fun t => statusWord t.status == 0x708#64) = true := by decide +kernel

/-- L2-6: BLK > NBLK. -/
theorem test_iterate_nothing_left : nextHas (step (latched 0x18000000#32 ((abcPadded 1#2).setBlk 5#64)))
    (fun t => t.blk == 5#64 && statusWord t.status == 0x0C#64 && cellValue t.h 0 == 0x6A09E667#64) = true := by
  decide +kernel

/-- L2-6. -/
theorem test_iterate_not_padded : nextHas (step (latched 0x18000000#32 (after (.init 1#2) State.reset)))
    (fun t => statusWord t.status == 0x608#64) = true := by decide +kernel

/-- L2-6: FINAL after INIT A. -/
theorem test_final : nextHas (step (latched 0x19000000#32 (after (.init 0#2) State.reset))) (fun t =>
    bytesFrom t.dig 0 6 == [0x67#8, 0x45#8, 0x23#8, 0x01#8, 0xEF#8, 0xCD#8].map some
    && bytesFrom t.dig 19 2 == [0xF0#8, 0x00#8].map some && t.dig.read 63 == some 0x00#8
    && statusWord t.status == 0x0A#64) = true := by decide +kernel

/-- L1-1: RUN B of the empty message, from reset. -/
theorem test_run : nextHas (step (latched 0x1A004000#32 State.reset)) (fun t =>
    bytesFrom t.dig 0 4 == [0xE3#8, 0xB0#8, 0xC4#8, 0x42#8].map some
    && bytesFrom t.dig 28 5 == [0x78#8, 0x52#8, 0xB8#8, 0x55#8, 0x00#8].map some
    && statusWord t.status == 0x0E#64) = true := by decide +kernel

/-- L2-6: RUN overflow. -/
theorem test_run_overflow : nextHas (step (latched 0x1A008000#32 ((withCap 128).setLen 112#64)))
    (fun t => statusWord t.status == 0x800#64 && t.msg == Memory.empty) = true := by decide +kernel

/-- L2-7. -/
theorem test_clrerr : nextHas (step (latched 0x1E000000#32 errState)) (fun t => statusWord t.status == 0#64)
    = true := by decide +kernel

/-- L2-7. -/
theorem test_clrerr_malformed : nextHas (step (latched 0x1E000001#32 errState))
    (fun t => t.status.err == .illegalCmd) = true := by decide +kernel

/-- L2-7: SRESET clears the control state and keeps the data. -/
theorem test_sreset : nextHas (step (latched 0x1F000000#32 (abcPadded 1#2))) (fun t =>
    statusWord t.status == 0#64 && t.variant == .A && t.len == 0#64 && t.nblk == 0#64 && t.lastCmd == 0#32
    && t.msg.read 2 == some 0x63#8 && cellValue t.h 0 == 0x6A09E667#64) = true := by decide +kernel

/-- L2-7: after SRESET, PAD raises NOT_INIT. -/
theorem test_sreset_then_pad : nextHas (step (latched 0x11000000#32 (after .sreset (abcPadded 1#2))))
    (fun t => statusWord t.status == 0x500#64) = true := by decide +kernel

/-! ### The host's side (L2-9, L2-10) -/

/-- L2-9: write while BUSY; the history is a list of events. -/
theorem test_write_while_busy : nextHas
    (andThen (andThen (hostStep (.regWrite 0x000#16 0x01000004#64) (rotState 0x12345678#64))
      (hostStep (.regWrite 0x000#16 0x01000008#64))) step)
    (fun t => statusWord t.status == 0x10#64 && t.lastCmd == 0x01000004#32 && t.rotOut.val == 0x23456781#64)
    = true := by decide +kernel

/-- L2-9: unmapped read. -/
theorem test_unmapped_read : nextHas (hostStep (.regRead 0x00A#16) State.reset)
    (fun t => statusWord t.status == 0x20#64 && t.host.replies == [.word 0#64]) = true := by decide +kernel

/-- L2-10: unwritten read, unwritten rotate operand. -/
theorem test_unwritten_faults : faultsOn (hostStep (.regRead 0x010#16) State.reset) (.h 0) = true ∧
    faultsOn (step (latched 0x01000001#32 State.reset)) .rotIn = true := by decide +kernel

/-- L2-10: unwritten message. -/
theorem test_unwritten_message : faultsOn (step (latched 0x1A000000#32 ((withCap 128).setLen 56#64))) (.msg 0)
    = true := by decide +kernel

/-- Two words of the assembler's language (30_encoding.md R101). -/
theorem test_assemble : assemble "ROTL32" (.num 28) = some (.rotl32 28#8) ∧
    assemble "RUN" (.letter 'C') = some (.run 2#2) ∧ assemble "ROUND" (.num 256) = none := by decide

/-- `ROUNDS #254, #255` is two lines, `ROUNDS #254, #256` has one that the assembler refuses (30_encoding.md R101,
R103); `hi < lo` is refused by the model's choice (log 26). -/
theorem test_rounds : roundsEvents 254 255 = some (commandEvents (.round 254#8) ++ commandEvents (.round 255#8)) ∧
    roundsEvents 254 256 = none ∧ roundsEvents 1 0 = none := by decide

/-- `BLOCK` of Variant B begins with the writes of EXPAND and WSINIT and has 67 commands (30_encoding.md R103). -/
theorem test_block : (lineEvents (.block .B)).map List.length = some (3 * 67) ∧
    (lineEvents (.block .B)).bind List.head? = some (.host (.regWrite cmdIndex 0x12000000#64)) := by decide +kernel

/-! ### Witnesses: for each statement with hypotheses, a state and operands that meet them, clause by clause -/

/-- "abc" padded, with the first command of a program as the pending word and no event listed. -/
def pendingAbc (c : CmdWord) : State := latch c (abcPadded 1#2)

/-- EncodeOfDecodeIsTheWord. -/
theorem wit_encode_of_decode : decode 0x1400004F#32 = .ok (.round 79#8) ∧ encode (.round 79#8) = 0x1400004F#32 := by
  decide

/-- StepRunsTheDecodedCommand: with and without an event listed, and both commands that run while ERR ≠ 0. -/
theorem wit_step_runs :
    (let s := latched 0x1A004000#32 State.reset
     s.EngineNext ∧ s.status.busy = true ∧ s.pending = some 0x1A004000#32 ∧
      decode 0x1A004000#32 = .ok (.run 1#2) ∧ s.status.err = .none) ∧
    (let s := pendingAbc 0x17000000#32
     s.EngineNext ∧ s.status.busy = true ∧ s.pending = some 0x17000000#32 ∧
      decode 0x17000000#32 = .ok .step ∧ s.status.err = .none) ∧
    (let s := latched 0x1E000000#32 errState
     s.EngineNext ∧ s.status.busy = true ∧ s.pending = some 0x1E000000#32 ∧
      decode 0x1E000000#32 = .ok .clrerr ∧ s.status.err ≠ .none) ∧
    (let s := latched 0x1F000000#32 errState
     s.EngineNext ∧ s.status.busy = true ∧ s.pending = some 0x1F000000#32 ∧
      decode 0x1F000000#32 = .ok .sreset ∧ s.status.err ≠ .none) := by decide +kernel

/-- StepOfIllegalWord: a reserved opcode, a reserved field, and malformed CLRERR and SRESET words while ERR ≠ 0. -/
theorem wit_illegal_word :
    (let s := latched 0x20000000#32 State.reset
     s.EngineNext ∧ s.status.busy = true ∧ s.pending = some 0x20000000#32 ∧
      decode 0x20000000#32 = .error .reservedOpcode ∧ s.status.err = .none) ∧
    (let s := latched 0x01010001#32 State.reset
     s.EngineNext ∧ s.status.busy = true ∧ s.pending = some 0x01010001#32 ∧
      decode 0x01010001#32 = .error .reservedField ∧ s.status.err = .none) ∧
    (let s := latched 0x1E000001#32 errState
     s.EngineNext ∧ s.status.busy = true ∧ s.pending = some 0x1E000001#32 ∧
      decode 0x1E000001#32 = .error .reservedField ∧ opField 0x1E000001#32 = 0x1E#8 ∧ s.status.err ≠ .none) ∧
    (let s := latched 0x1F800000#32 errState
     s.EngineNext ∧ s.status.busy = true ∧ s.pending = some 0x1F800000#32 ∧
      decode 0x1F800000#32 = .error .reservedField ∧ opField 0x1F800000#32 = 0x1F#8 ∧ s.status.err ≠ .none) := by
  decide +kernel

/-- RejectedWhileErrorStands. -/
theorem wit_rejected :
    (let s := latched 0x11000000#32 errState
     s.EngineNext ∧ s.status.busy = true ∧ s.pending = some 0x11000000#32 ∧ s.status.err ≠ .none ∧
      opField 0x11000000#32 ≠ 0x1E#8 ∧ opField 0x11000000#32 ≠ 0x1F#8) ∧
    errState.status.err ≠ .none ∧ errState.status.busy = false := by decide +kernel

/-- ChecksRunInTableOrder, the first clause. -/
theorem wit_checks_rejected : errState.status.err ≠ .none ∧ opField 0x01000001#32 ≠ 0x1E#8 ∧
    opField 0x01000001#32 ≠ 0x1F#8 := by decide

/-- ChecksRunInTableOrder: for each code a word and a state whose first failing check raises it; the first two fail
a later check as well (L2-1, L2-2, L2-8). -/
theorem wit_checks_first : FirstFailing (checkTable 0x0100C000#32 State.reset) .illegalCmd ∧
    FirstFailing (checkTable 0x14000050#32 State.reset) .notInit ∧
    FirstFailing (checkTable 0x140000C8#32 (after (.init 1#2) State.reset)) .badRound ∧
    FirstFailing (checkTable 0x1000C000#32 State.reset) .badVariant ∧
    FirstFailing (checkTable 0x04000040#32 State.reset) .badShift ∧
    FirstFailing (checkTable 0x18000000#32 (after (.init 1#2) State.reset)) .notPadded ∧
    FirstFailing (checkTable 0x17000000#32 (after (.init 1#2) State.reset)) .noBlock ∧
    FirstFailing (checkTable 0x11000000#32 ((after (.init 2#2) (withCap 128)).setLen 112#64)) .bufOverflow := by
  refine ⟨?_, ?_, ?_, ?_, ?_, ?_, ?_, ?_⟩ <;> simp [FirstFailing, checkTable, opsN, opsI, opsV, needsValidOps] <;>
    decide +kernel

/-- ChecksRunInTableOrder: RUN fails its last check with the variant it names (L2-6). -/
theorem wit_checks_run : variantOfCode ((0x1A008000#32).extractLsb' 14 2) = some .C ∧
    ((withCap 128).setLen 112#64).params.msgCap < padLen .C ((withCap 128).setLen 112#64).len.toNat := by decide

/-- ChecksRunInTableOrder: a word that fails no check, and that completes. -/
theorem wit_checks_none : NoneFails (checkTable 0x01000001#32 (rotState 1#64)) ∧
    nextHas (performWord 0x01000001#32 (rotState 1#64)) (fun t => t.rotOut.val == 2#64) = true := by
  refine ⟨?_, by decide +kernel⟩
  simp [NoneFails, checkTable, opsN, opsI, opsV, needsValidOps]

/-- ErrorsArePrecise. -/
theorem wit_precise : ∃ t, exec (.rotl64 64#8) (rotState 1#64) = .next t ∧ t.status.err ≠ .none ∧
    t.status.err ≠ (rotState 1#64).status.err := ⟨_, rfl, by decide, by decide⟩

/-- OnlyUnwrittenCellsFault. -/
theorem wit_faults : faultsOn (exec (.rotl32 1#8) State.reset) .rotIn = true ∧
    decode 0x11000001#32 = .error .reservedField := by decide +kernel

/-- IdleBlockKeepsItsState. -/
theorem wit_idle : State.reset.status.busy = false ∧ State.reset.host.todo = [] := by decide

/-- EngineStepClearsBusy: an engine step of a block that is busy, and of one that is idle. -/
theorem wit_clears_busy :
    (let s := latched 0x10004000#32 State.reset
     s.EngineNext ∧ s.PendingIffBusy ∧ nextHas (step s) (fun t => t.status.valid) = true) ∧
    State.reset.EngineNext ∧ State.reset.PendingIffBusy ∧ nextHas (step State.reset) (fun _ => true) = true := by
  decide +kernel

/-- StepKeepsTheInvariant: reset, and a state after a step that has set every flag of the invariant. -/
theorem wit_invariant : State.reset.Inv ∧
    nextHas (step (latched 0x1A004000#32 State.reset)) (fun t => decide (t.Inv) && t.status.done && t.status.padded)
      = true := by decide +kernel

/-- The memory after reset is in canonical form, and a write keeps it. -/
theorem test_memory_wf : State.reset.msg.wf ∧ ((State.reset.msg.write 5 1#8).write 2 1#8).wf ∧
    ((State.reset.msg.write 5 1#8).write 5 2#8).cells = [(5, 2#8)] := by decide

/-- ResetMeetsTheInvariant: the ends of the range of MSG_CAP (00_scope.md R7). -/
theorem wit_params : Params.legal { msgCap := 128, schedRot := false } = true ∧
    Params.legal { msgCap := 2 ^ 61, schedRot := true } = true ∧
    Params.legal { msgCap := 64, schedRot := true } = false := by decide

/-- InvariantStatesStopOnlyOnUnwrittenCells. -/
theorem wit_invariant_faults : (latched 0x01000001#32 State.reset).Inv ∧
    faultsOn (step (latched 0x01000001#32 State.reset)) .rotIn = true := by decide +kernel

/-- MSG_CAP = 128 with every data cell written, and RUN A as the pending command. -/
def fullState : State :=
  latched 0x1A000000#32 <|
    ((((((withCap 128).setRotIn (DataCell.ofWord 1#64)).setRotOut (DataCell.ofWord 2#64)).setH
      (Vector.replicate 8 (DataCell.ofWord 3#64))).setWs (Vector.replicate 8 (DataCell.ofWord 4#64))).setW
      (Vector.replicate 80 (DataCell.ofWord 5#64))).setMsg (Memory.empty.writeBytes 0 (List.replicate 128 6#8)) |>.setDig
      (Memory.empty.writeBytes 0 (List.replicate 64 7#8))

/-- EveryStepCompletesOnWrittenCells. -/
theorem wit_written_cells : fullState.Inv ∧ fullState.AllWritten := by decide +kernel

/-- A file after reset has no written cell. -/
theorem replicate_unwritten (n i : Nat) : cellWritten (Vector.replicate n DataCell.unwritten) i = false := by
  unfold cellWritten
  simp only [Vector.toList_replicate, List.getD_eq_getElem?_getD, List.getElem?_replicate]
  split <;> rfl

/-- UnwrittenContentsNeverMatter: ROTL32 #1 with H unwritten in the one state and written in the other. -/
theorem wit_contents : (latched 0x01000001#32 (rotState 5#64)).StandsFor
      ((latched 0x01000001#32 (rotState 5#64)).setH (Vector.replicate 8 (DataCell.ofWord 3#64))) ∧
    nextHas (step (latched 0x01000001#32 (rotState 5#64))) (fun t => t.rotOut.val == 10#64) = true := by
  refine ⟨⟨rfl, rfl, rfl, rfl, rfl, rfl, rfl, rfl, rfl, fun _ => rfl, fun _ => rfl, fun i h => ?_, fun _ h => ⟨h, rfl⟩,
    fun _ h => ⟨h, rfl⟩, fun _ _ h => h, fun _ _ h => h⟩, by decide +kernel⟩
  rw [show (latched 0x01000001#32 (rotState 5#64)).h = Vector.replicate 8 DataCell.unwritten from rfl,
    replicate_unwritten] at h
  cases h

/-- Reset with MSG_CAP = 128 and RUN A pending; `fullState` is one hardware that it stands for. -/
theorem wit_hardware : (latched 0x1A000000#32 (withCap 128)).Inv ∧
    HardwareStep (latched 0x1A000000#32 (withCap 128)) (nextOr (step fullState) fullState) := by
  refine ⟨by decide +kernel, fullState, ⟨rfl, rfl, rfl, rfl, rfl, rfl, rfl, rfl, rfl, fun h => ?_, fun h => ?_, fun i h => ?_,
    fun i h => ?_, fun i h => ?_, fun _ _ h => ?_, fun _ _ h => ?_⟩, wit_written_cells.2, wit_written_cells.1, ?_⟩
  · cases h
  · cases h
  · exact absurd (h.symm.trans (replicate_unwritten 8 i)) (by decide)
  · exact absurd (h.symm.trans (replicate_unwritten 8 i)) (by decide)
  · exact absurd (h.symm.trans (replicate_unwritten 80 i)) (by decide)
  · cases h
  · cases h
  · have hn : nextHas (step fullState) (fun _ => true) = true := by decide +kernel
    revert hn
    cases step fullState with
    | next t => exact fun _ => rfl
    | fault f => exact fun h => by cases h
    | refused f => exact fun h => by cases h

/-- OnlyResetSetsUnwrittenMarks: SRESET, which clears every other kind of state. -/
theorem wit_marks : nextHas (step (latched 0x1F000000#32 (abcPadded 1#2))) (fun t => t.isWritten (.msg 63)) = true ∧
    (latched 0x1F000000#32 (abcPadded 1#2)).host.todo.head? ≠ some .reset ∧
    (latched 0x1F000000#32 (abcPadded 1#2)).isWritten (.msg 63) = true := by decide +kernel

/-- ParametersAreConstant, CommandsFrame. -/
theorem wit_frame : nextHas (exec .pad (abcPadded 1#2)) (fun _ => true) = true ∧
    nextHas (step (latched 0x11000000#32 (abcPadded 1#2))) (fun _ => true) = true ∧
    Instr.pad ≠ .clrerr ∧ Instr.pad ≠ .sreset := by decide +kernel

/-- CommandsKeepTheMessage: the last byte of the message and the first beyond the padded length. -/
theorem wit_message : nextHas (exec (.run 1#2) abc)
    (fun t => t.variant == .B && decide (2 < abc.len.toNat ∧ padLen t.variant abc.len.toNat ≤ 64)) = true ∧
    nextHas (exec .wsinit (abcPadded 1#2)) (fun _ => true) = true ∧ Instr.wsinit ≠ .pad := by decide +kernel

/-- RotationLaws, RotationsMoveBitsRoundTheWord: the ends of the range. -/
theorem wit_rotations : (0 < 1 ∧ 1 < 32) ∧ (0 < 31 ∧ 31 < 32) ∧ (0 < 63 ∧ 63 < 64) ∧
    rotl 0x80000001#32 1 = 3#32 ∧ rotr 1#64 1 = 0x8000000000000000#64 := by decide

/-- WordFunctionsAreTheRules: the ends of the bit range and of the bands. -/
theorem wit_word_functions : 31 < 32 ∧ 63 < 64 ∧ mixA 19 1#32 2#32 3#32 = ch 1#32 2#32 3#32 ∧
    mixA 20 1#32 2#32 3#32 = 0#32 ∧ mixA 40 1#32 2#32 3#32 = 3#32 ∧ mixA 60 1#32 2#32 3#32 = 0#32 := by decide

/-- The formats' hypothesis: words with each opcode of the table that are commands and words that are not. -/
theorem wit_formats : (∀ op ∈ opsN ++ opsI ++ opsV, (opField (matchWord (BitVec.ofNat 8 op))).toNat = op) ∧
    opField 0x1F000001#32 = 0x1F#8 ∧ opField 0x0400FF01#32 = 0x04#8 ∧ opField 0x10C00001#32 = 0x10#8 := by decide

/-- Rotl32Meaning, Rotr32Meaning: amounts just outside the range; the ends of it with ROT_IN unwritten and
written. -/
theorem wit_rot32 : ¬(1 ≤ (0#8).toNat ∧ (0#8).toNat ≤ 31) ∧ ¬(1 ≤ (32#8).toNat ∧ (32#8).toNat ≤ 31) ∧
    (1 ≤ (1#8).toNat ∧ (1#8).toNat ≤ 31) ∧ (1 ≤ (31#8).toNat ∧ (31#8).toNat ≤ 31) ∧
    State.reset.rotIn.written = false ∧ (rotState 1#64).rotIn.written = true := by decide

/-- Rotl64Meaning, Rotr64Meaning. -/
theorem wit_rot64 : ¬(1 ≤ (0#8).toNat ∧ (0#8).toNat ≤ 63) ∧ ¬(1 ≤ (64#8).toNat ∧ (64#8).toNat ≤ 63) ∧
    (1 ≤ (1#8).toNat ∧ (1#8).toNat ≤ 63) ∧ (1 ≤ (63#8).toNat ∧ (63#8).toNat ≤ 63) ∧
    State.reset.rotIn.written = false ∧ (rotState 1#64).rotIn.written = true := by decide

/-- PadMeaning, InvariantsAfterPad: not initialised; the least length that overflows and the greatest that fits. -/
theorem wit_pad : State.reset.status.valid = false ∧
    (let s := (after (.init 2#2) (withCap 128)).setLen 112#64
     s.status.valid = true ∧ s.params.msgCap < padLen s.variant s.len.toNat) ∧
    (let s := (after (.init 2#2) (withCap 128)).setLen 111#64
     s.params.legal = true ∧ s.status.valid = true ∧ padLen s.variant s.len.toNat ≤ s.params.msgCap ∧
      nextHas (exec .pad s) (fun t => t.nblk == 1#64) = true) := by decide +kernel

/-- PaddedLengthIsTheLeastMultiple: the least number of zeros and another one. -/
theorem wit_padlen : (56 + 1 + 63 + lengthBytes .B) % blockBytes .B = 0 ∧
    (56 + 1 + 127 + lengthBytes .B) % blockBytes .B = 0 ∧ zeroCount .B 56 = 63 := by decide

/-- ExpandMeaning: its four cases. -/
theorem wit_expand : State.reset.status.valid = false ∧
    (let s := after (.init 1#2) State.reset
     s.status.valid = true ∧ s.nblk.toNat ≤ s.blk.toNat) ∧
    (let s := after .pad (after (.init 1#2) (State.reset.setLen 3#64))
     s.status.valid = true ∧ s.blk.toNat < s.nblk.toNat ∧ ¬s.BlockWritten) ∧
    ∀ v : Fin 3, let s := abcPadded (BitVec.ofNat 2 v.val)
      s.status.valid = true ∧ s.blk.toNat < s.nblk.toNat ∧ s.BlockWritten := by decide +kernel

/-- VALID = 1 with H unwritten, which a state may have that no run reaches. -/
def validUnwritten : State := State.reset.setStatus { Status.zero with valid := true }

/-- WsinitMeaning, FinalMeaning. -/
theorem wit_hash : State.reset.status.valid = false ∧
    (validUnwritten.status.valid = true ∧ ¬validUnwritten.HashWritten) ∧
    (abcPadded 2#2).status.valid = true ∧ (abcPadded 2#2).HashWritten := by decide +kernel

/-- RoundMeaning: its four cases, at the last round of Variant B and the first that it lacks. -/
theorem wit_round : State.reset.status.valid = false ∧
    ((abcWork 1#2).status.valid = true ∧ rounds (abcWork 1#2).variant ≤ (64#8).toNat) ∧
    (let s := after (.init 1#2) State.reset
     s.status.valid = true ∧ (63#8).toNat < rounds s.variant ∧ ¬(s.WorkWritten ∧ cellWritten s.w 63 = true)) ∧
    ∀ v : Fin 3, let s := abcWork (BitVec.ofNat 2 v.val)
      s.status.valid = true ∧ rounds s.variant - 1 < rounds s.variant ∧ s.WorkWritten ∧
        cellWritten s.w (rounds s.variant - 1) = true := by decide +kernel

/-- CompressMeaning. -/
theorem wit_compress : State.reset.status.valid = false ∧
    ∀ v : Fin 3, let s := abcExpanded (BitVec.ofNat 2 v.val)
      s.status.valid = true ∧ s.HashWritten ∧ s.ScheduleWritten := by decide +kernel

/-- ChainMeaning. -/
theorem wit_chain : State.reset.status.valid = false ∧
    (let s := after (.init 0#2) State.reset
     s.status.valid = true ∧ ¬(s.HashWritten ∧ s.WorkWritten)) ∧
    (abcWork 0#2).status.valid = true ∧ (abcWork 0#2).HashWritten ∧ (abcWork 0#2).WorkWritten := by decide +kernel

/-- StepCommandMeaning. -/
theorem wit_step_command : State.reset.status.valid = false ∧
    (let s := (abcPadded 1#2).setBlk 1#64
     s.status.valid = true ∧ s.nblk.toNat ≤ s.blk.toNat) ∧
    (abcPadded 1#2).status.valid = true ∧ (abcPadded 1#2).blk.toNat < (abcPadded 1#2).nblk.toNat ∧
    (abcPadded 1#2).BlockWritten ∧ (abcPadded 1#2).HashWritten := by decide +kernel

/-- IterateMeaning: its five cases. -/
theorem wit_iterate : State.reset.status.valid = false ∧
    (let s := after (.init 1#2) State.reset
     s.status.valid = true ∧ s.status.padded = false) ∧
    (let s := (abcPadded 1#2).setBlk 1#64
     s.status.valid = true ∧ s.status.padded = true ∧ s.nblk.toNat ≤ s.blk.toNat) ∧
    (let s := abcPadded 1#2
     s.status.valid = true ∧ s.status.padded = true ∧ s.blk.toNat < s.nblk.toNat ∧ s.HashWritten ∧
      s.MsgWritten (s.blk.toNat * blockBytes s.variant) (s.nblk.toNat * blockBytes s.variant)) := by decide +kernel

/-- RunMeaning, RunComputesTheDigest: overflow, a message byte unwritten, and the greatest message that fits. -/
theorem wit_run : (let s := (withCap 128).setLen 112#64
     s.params.msgCap < padLen .C s.len.toNat) ∧
    (let s := State.reset.setLen 1#64
     padLen .C s.len.toNat ≤ s.params.msgCap ∧ ¬s.MsgWritten 0 s.len.toNat) ∧
    (let s := ((withCap 128).setMsg ((withCap 128).msg.writeBytes 0 (List.replicate 111 0x61#8))).setLen 111#64
     padLen .C s.len.toNat ≤ s.params.msgCap ∧ s.MsgWritten 0 s.len.toNat) ∧
    padLen .A State.reset.len.toNat ≤ State.reset.params.msgCap ∧ State.reset.MsgWritten 0 State.reset.len.toNat := by
  decide +kernel

/-- BlockPseudoIsStepWithoutBlk. -/
theorem wit_block : (abcPadded 0#2).status.valid = true ∧ (abcPadded 0#2).blk.toNat < (abcPadded 0#2).nblk.toNat ∧
    nextHas (exec .step (abcPadded 0#2)) (fun _ => true) = true := by decide +kernel

/-- A register file with ones put into the upper half of every cell. -/
def dirty {n : Nat} (f : Vector DataCell n) : Vector DataCell n :=
  f.map fun c => { c with val := c.val ||| 0xFFFFFFFF00000000#64 }

/-- UpperHalvesAreIgnored, within each file. -/
theorem wit_upper_halves : (abcWork 1#2).variant ≠ .C ∧ (abcWork 1#2).status.valid = true ∧
    (63#8).toNat < rounds (abcWork 1#2).variant ∧
    (∀ j < 8, low32 (cellValue (dirty (abcWork 1#2).h) j) = low32 (cellValue (abcWork 1#2).h j) ∧
      cellValue (dirty (abcWork 1#2).h) j ≠ cellValue (abcWork 1#2).h j ∧
      cellWritten (dirty (abcWork 1#2).h) j = cellWritten (abcWork 1#2).h j) ∧
    nextHas (exec (.round 63#8) (abcWork 1#2)) (fun _ => true) = true := by decide +kernel

/-- NopMeaning, FetchWordIsTheNextCommand, ClrerrMeaning. -/
theorem wit_control : State.reset.status.busy = false ∧ State.reset.pending = none ∧ State.reset.status.err = .none ∧
    opField 0x1E000001#32 = 0x1E#8 ∧ 0x1E000001#32 ≠ 0x1E000000#32 := by decide

/-- A busy block. -/
def busy : State := latch 0x1A004000#32 State.reset

/-- RegReadMeaning, RegWriteMeaning: each clause, at both ends of each range of indices. -/
theorem wit_registers :
    (regOf 0x00A#16 = none ∧ regOf 0x00F#16 = none ∧ regOf 0x070#16 = none ∧ regOf 0xFFFF#16 = none) ∧
    regOf 0x000#16 = some .cmd ∧ regOf 0x009#16 = some .config ∧ regOf 0x003#16 = some .len ∧
    regOf 0x010#16 = some (.h 0) ∧ regOf 0x01F#16 = some (.ws 7) ∧ regOf 0x06F#16 = some (.w 79) ∧
    RegId.len ∉ [RegId.cmd, .status, .msgcap, .config] ∧ RegId.nblk ∈ [RegId.status, .variant, .nblk, .rotOut, .msgcap, .config] ∧
    RegId.w 79 ∉ [RegId.cmd, .status, .variant, .nblk, .rotOut, .msgcap, .config] ∧
    busy.status.busy = true ∧ State.reset.status.busy = false ∧
    (∀ c ∈ regReads .len, State.reset.isWritten c = true) ∧
    (CellId.h 0 ∈ regReads (.h 0) ∧ State.reset.isWritten (.h 0) = false) := by decide +kernel

/-- MsgAccessMeaning, DigReadMeaning: each clause, at the last cell and the first address beyond. -/
theorem wit_buffers : abc.params.msgCap ≤ 256 ∧ 255 < abc.params.msgCap ∧ abc.status.busy = false ∧
    busy.status.busy = true ∧ abc.msg.read 2 = some 0x63#8 ∧ abc.msg.read 255 = none ∧
    nextHas (exec .final (abcPadded 2#2)) (fun t => t.dig.read 63 == some 0x79#8 && !t.status.busy) = true ∧
    State.reset.dig.read 63 = none := by decide +kernel

/-- StepPerformsTheListedEvent: one event of each kind. -/
theorem wit_events : ∃ s : State, s.host.todo = [.reset, .host (.regRead 0x001#16), .engine] ∧
    nextHas (step s) (fun t => t.host.todo.head? == some (.host (.regRead 0x001#16))) = true :=
  ⟨busy.setHost { busy.host with todo := [.reset, .host (.regRead 0x001#16), .engine] }, rfl, by decide +kernel⟩

/-- AssemblerRefusesWhatItCannotSpell. -/
theorem wit_assembler : 255 < 256 ∧ 'D' ∉ ['A', 'B', 'C'] ∧ assemble "INIT" (.letter 'A') = some (.init 0#2) := by
  decide

end Sys2Proof.Tests
end

section
/-! SUPPORT. States that differ only in the contents of cells marked unwritten (00_scope.md R13, 10_state.md R21): each
operation of the model, from the setters up to the step, takes such states to such states. -/

namespace Sys2Proof.Machine

/-! ### Files and buffers -/

/-- The file `g` holds what `f` holds in every cell that `f` does not mark unwritten. -/
def CellsAgree {n : Nat} (f g : Vector DataCell n) : Prop :=
  ∀ i, cellWritten f i = true → cellWritten g i = true ∧ cellValue g i = cellValue f i

/-- The buffer `m'` holds what `m` holds in every cell that `m` does not mark unwritten. -/
def BytesAgree (m m' : Memory) : Prop := ∀ a b, m.read a = some b → m'.read a = some b

theorem CellsAgree.writeFirst {n : Nat} {f g : Vector DataCell n} (h : CellsAgree f g) (vs : List Word) :
    CellsAgree (writeFirst f vs) (writeFirst g vs) := by
  intro i hi
  rw [cellWritten_writeFirst] at hi
  simp only [cellWritten_writeFirst, cellValue_writeFirst]
  split <;> rename_i hin
  · exact ⟨rfl, rfl⟩
  · rw [if_neg hin] at hi
    exact h i hi

theorem CellsAgree.set {n : Nat} {f g : Vector DataCell n} (h : CellsAgree f g) (k : Nat) (hk : k < n) (v : Word) :
    CellsAgree (f.set k (DataCell.ofWord v) hk) (g.set k (DataCell.ofWord v) hk) := by
  intro i hi
  rw [cellWritten_set] at hi
  simp only [cellWritten_set, cellValue_set]
  split <;> rename_i hik
  · exact ⟨rfl, rfl⟩
  · rw [if_neg hik] at hi
    exact h i hi

theorem BytesAgree.write {m m' : Memory} (h : BytesAgree m m') (a : Nat) (b : Byte) :
    BytesAgree (m.write a b) (m'.write a b) := by
  intro k c hk
  by_cases hka : k = a
  · subst hka
    rwa [Memory.read_write_same] at hk ⊢
  · rw [Memory.read_write_ne _ _ hka] at hk ⊢
    exact h k c hk

theorem BytesAgree.writeBytes {m m' : Memory} (h : BytesAgree m m') (a : Nat) (bs : List Byte) :
    BytesAgree (m.writeBytes a bs) (m'.writeBytes a bs) := by
  induction bs generalizing m m' a with
  | nil => exact h
  | cons b bs ih => exact ih (h.write a b) (a + 1)

theorem BytesAgree.byteAt {m m' : Memory} (h : BytesAgree m m') {a : Nat} (ha : (m.read a).isSome = true) :
    m'.byteAt a = m.byteAt a := by
  obtain ⟨b, hb⟩ := Option.isSome_iff_exists.mp ha
  rw [Memory.byteAt, Memory.byteAt, hb, h a b hb]

theorem BytesAgree.readBE {m m' : Memory} (h : BytesAgree m m') {a n : Nat}
    (hw : ∀ k < n, (m.read (a + k)).isSome = true) : m'.readBE a n = m.readBE a n := by
  unfold Memory.readBE
  congr 1
  exact List.map_congr_left fun k hk => h.byteAt (hw k (List.mem_range.mp hk))

/-! ### Setters -/

namespace State.StandsFor

variable {s u : State} (h : s.StandsFor u)

theorem refl (s : State) : s.StandsFor s :=
  ⟨rfl, rfl, rfl, rfl, rfl, rfl, rfl, rfl, rfl, fun _ => rfl, fun _ => rfl, fun _ h => ⟨h, rfl⟩, fun _ h => ⟨h, rfl⟩,
    fun _ h => ⟨h, rfl⟩, fun _ _ h => h, fun _ _ h => h⟩

include h

theorem setLastCmd (c : CmdWord) : (s.setLastCmd c).StandsFor (u.setLastCmd c) := { h with lastCmd := rfl }
theorem setPending (p : Option CmdWord) : (s.setPending p).StandsFor (u.setPending p) := { h with pending := rfl }
theorem setStatus (st : Status) : (s.setStatus st).StandsFor (u.setStatus st) := { h with status := rfl }
theorem setVariant (v : Variant) : (s.setVariant v).StandsFor (u.setVariant v) := { h with variant := rfl }
theorem setLen (v : Word) : (s.setLen v).StandsFor (u.setLen v) := { h with len := rfl }
theorem setNblk (v : Word) : (s.setNblk v).StandsFor (u.setNblk v) := { h with nblk := rfl }
theorem setBlk (v : Word) : (s.setBlk v).StandsFor (u.setBlk v) := { h with blk := rfl }
theorem setHost (p : HostPort) : (s.setHost p).StandsFor (u.setHost p) := { h with host := rfl }
theorem setRotIn (d : DataCell) : (s.setRotIn d).StandsFor (u.setRotIn d) := { h with rotIn := fun _ => rfl }
theorem setRotOut (d : DataCell) : (s.setRotOut d).StandsFor (u.setRotOut d) := { h with rotOut := fun _ => rfl }

theorem setH {f g : Vector DataCell 8} (hf : CellsAgree f g) : (s.setH f).StandsFor (u.setH g) := { h with h := hf }
theorem setWs {f g : Vector DataCell 8} (hf : CellsAgree f g) : (s.setWs f).StandsFor (u.setWs g) := { h with ws := hf }
theorem setW {f g : Vector DataCell 80} (hf : CellsAgree f g) : (s.setW f).StandsFor (u.setW g) := { h with w := hf }
theorem setMsg {m m' : Memory} (hm : BytesAgree m m') : (s.setMsg m).StandsFor (u.setMsg m') := { h with msg := hm }
theorem setDig {m m' : Memory} (hm : BytesAgree m m') : (s.setDig m).StandsFor (u.setDig m') := { h with dig := hm }

/-- A cell that `s` does not mark unwritten is not so marked in `u`. -/
theorem isWritten {c : CellId} (hc : s.isWritten c = true) : u.isWritten c = true := by
  have readable {m m' : Memory} (hm : BytesAgree m m') {a : Nat} (ha : (m.read a).isSome = true) :
      (m'.read a).isSome = true := by
    obtain ⟨b, hb⟩ := Option.isSome_iff_exists.mp ha
    rw [hm a b hb]
    rfl
  cases c with
  | rotIn => rw [State.isWritten] at hc ⊢; rwa [h.rotIn hc]
  | rotOut => rw [State.isWritten] at hc ⊢; rwa [h.rotOut hc]
  | h i => exact (h.h i hc).1
  | ws i => exact (h.ws i hc).1
  | w i => exact (h.w i hc).1
  | msg a => exact readable h.msg hc
  | dig a => exact readable h.dig hc

/-! ### What a command computes from written cells -/

theorem expandReads_eq : expandReads u = expandReads s := by
  simp only [expandReads, blockStart, h.variant, h.blk]

theorem wsinitWords_eq (hw : s.HashWritten) : wsinitWords u = wsinitWords s := by
  unfold wsinitWords
  rw [h.variant]
  refine List.map_congr_left fun i hi => ?_
  rw [(h.h i (hw i (List.mem_range.mp hi))).2]

theorem chainWords_eq (hw : s.HashWritten) (hws : s.WorkWritten) : chainWords u = chainWords s := by
  unfold chainWords
  rw [h.variant]
  refine List.map_congr_left fun i hi => ?_
  have hi := List.mem_range.mp hi
  rw [(h.h i (hw i hi)).2, (h.ws i (hws i hi)).2]

theorem digestImage_eq (hw : s.HashWritten) : digestImage u = digestImage s := by
  unfold digestImage
  rw [h.variant]
  congr 1
  refine List.flatMap_congr fun i hi => ?_
  rw [(h.h i (hw i (List.mem_range.mp hi))).2]

theorem roundWords_eq {t : Nat} (hw : cellWritten s.w t = true) (hws : s.WorkWritten) :
    roundWords t u = roundWords t s := by
  have value (i : Nat) (hi : i < stateWords s.variant) : cellValue u.ws i = cellValue s.ws i := (h.ws i (hws i hi)).2
  unfold roundWords
  rw [h.variant, (h.w t hw).2]
  cases hv : s.variant <;> simp only [hv, stateWords] at value <;> simp [Work5.ofFn, Work8.ofFn, value]

theorem blockWord_eq {j : Nat} (hj : j < 16) (hb : s.BlockWritten) : blockWord u j = blockWord s j := by
  have hsize : 16 * wordBytes s.variant = blockBytes s.variant := by cases s.variant <;> rfl
  have hword : (j + 1) * wordBytes s.variant ≤ 16 * wordBytes s.variant := Nat.mul_le_mul_right _ hj
  rw [Nat.add_mul] at hword
  simp only [blockWord, blockStart, h.variant, h.blk]
  exact BytesAgree.readBE h.msg fun k hk => hb _ (by rw [blockStart]; omega) (by rw [blockStart]; omega)

theorem scheduleWords_eq (hb : s.BlockWritten) : scheduleWords u = scheduleWords s := by
  have words (w : Nat) : blockWords w u = blockWords w s :=
    List.map_congr_left fun j hj => by rw [h.blockWord_eq (List.mem_range.mp hj) hb]
  simp only [scheduleWords, h.variant, h.params, words]

theorem regValue_eq {r : RegId} (hr : ∀ c ∈ regReads r, s.isWritten c = true) : regValue r u = regValue r s := by
  cases r with
  | cmd => simp only [regValue, h.lastCmd]
  | status => simp only [regValue, h.status]
  | variant => simp only [regValue, h.variant]
  | len => exact h.len
  | nblk => exact h.nblk
  | blk => exact h.blk
  | msgcap => simp only [regValue, h.params]
  | config => simp only [regValue, h.params]
  | rotIn => exact congrArg DataCell.val (h.rotIn (hr _ (List.mem_singleton_self _)))
  | rotOut => exact congrArg DataCell.val (h.rotOut (hr _ (List.mem_singleton_self _)))
  | h i => exact (h.h i (hr _ (List.mem_singleton_self _))).2
  | ws i => exact (h.ws i (hr _ (List.mem_singleton_self _))).2
  | w i => exact (h.w i (hr _ (List.mem_singleton_self _))).2

end State.StandsFor

/-! ### Outcomes -/

/-- Where `r` answers a next state, `r'` answers one that it stands for. -/
def LiftsTo (r r' : Result) : Prop := ∀ t, r = .next t → ∃ v, r' = .next v ∧ t.StandsFor v

theorem State.StandsFor.next {s u : State} (h : s.StandsFor u) : LiftsTo (.next s) (.next u) := by
  rintro t ⟨⟩
  exact ⟨u, rfl, h⟩

/-- A mark check passes in `u` where it passes in `s`, and only then does the rest have to agree. -/
theorem needWritten_liftsTo {s u : State} (h : s.StandsFor u) {cells : List CellId} {r r' : Result}
    (hr : (∀ c ∈ cells, s.isWritten c = true) → LiftsTo r r') :
    LiftsTo (needWritten cells s r) (needWritten cells u r') := by
  intro t ht
  obtain ⟨hnext, hw⟩ := needWritten_next ht
  rw [needWritten_of_written _ fun c hc => h.isWritten (hw c hc)]
  exact hr hw t hnext

theorem andThen_liftsTo {r r' : Result} {k : State → Result} (hr : LiftsTo r r')
    (hk : ∀ s u, s.StandsFor u → LiftsTo (k s) (k u)) : LiftsTo (andThen r k) (andThen r' k) := by
  intro t ht
  obtain ⟨s, hs, ht⟩ := andThen_eq_next ht
  obtain ⟨u, rfl, hsu⟩ := hr s hs
  exact hk s u hsu t ht

theorem raise_liftsTo {s u : State} (h : s.StandsFor u) (e : ErrCode) : LiftsTo (raise e s) (raise e u) := by
  simp only [raise_eq, h.status]
  exact (h.setStatus _).next

theorem ite_raise_liftsTo {s u : State} (h : s.StandsFor u) {p : Prop} [Decidable p] {r r' : Result} {e : ErrCode}
    (hr : LiftsTo r r') : LiftsTo (if p then r else raise e s) (if p then r' else raise e u) := by
  split
  · exact hr
  · exact raise_liftsTo h e

theorem requireValid_liftsTo {s u : State} (h : s.StandsFor u) {r r' : Result} (hr : LiftsTo r r') :
    LiftsTo (requireValid s r) (requireValid u r') := by
  simp only [requireValid, h.status]
  exact ite_raise_liftsTo h hr

/-! ### The parts of the commands -/

section Commands
variable {s u : State} (h : s.StandsFor u)
include h

theorem rotateInto_liftsTo {w : Nat} {n : BitVec 8} {x x' : Word} (hx : s.rotIn.written = true → x' = x) :
    LiftsTo (rotateInto w n x s) (rotateInto w n x' u) := by
  refine ite_raise_liftsTo h (needWritten_liftsTo h fun hw => ?_)
  rw [hx (hw .rotIn (List.mem_singleton_self _))]
  exact (h.setRotOut _).next

theorem performExpand_liftsTo : LiftsTo (performExpand s) (performExpand u) := by
  rw [performExpand, performExpand, h.expandReads_eq]
  refine needWritten_liftsTo h fun hw => ?_
  rw [expandEffect, expandEffect, h.scheduleWords_eq (expandReads_written.mp hw)]
  exact (h.setW (CellsAgree.writeFirst h.w _)).next

theorem performWsinit_liftsTo : LiftsTo (performWsinit s) (performWsinit u) := by
  rw [performWsinit, performWsinit, wsinitReads, wsinitReads, h.variant]
  refine needWritten_liftsTo h fun hw => ?_
  rw [h.wsinitWords_eq (hRange_written.mp hw)]
  exact (h.setWs (CellsAgree.writeFirst h.ws _)).next

theorem performRound_liftsTo (t : Nat) : LiftsTo (performRound t s) (performRound t u) := by
  have hreads : roundReads t u = roundReads t s := by rw [roundReads, roundReads, h.variant]
  rw [performRound, performRound, hreads]
  refine needWritten_liftsTo h fun hw => ?_
  obtain ⟨hwt, hws⟩ := roundReads_written.mp hw
  rw [h.roundWords_eq hwt hws]
  exact (h.setWs (CellsAgree.writeFirst h.ws _)).next

theorem performChain_liftsTo : LiftsTo (performChain s) (performChain u) := by
  have hreads : chainReads u = chainReads s := by rw [chainReads, chainReads, h.variant]
  rw [performChain, performChain, hreads]
  refine needWritten_liftsTo h fun hw => ?_
  obtain ⟨hh, hws⟩ := chainReads_written.mp hw
  rw [h.chainWords_eq hh hws]
  exact (h.setH (CellsAgree.writeFirst h.h _)).next

theorem performFinal_liftsTo : LiftsTo (performFinal s) (performFinal u) := by
  rw [performFinal, performFinal, finalReads, finalReads, h.variant]
  refine needWritten_liftsTo h fun hw => ?_
  rw [h.digestImage_eq (hRange_written.mp hw), h.status]
  exact ((h.setDig (BytesAgree.writeBytes h.dig _ _)).setStatus _).next

theorem performRounds_liftsTo (count first : Nat) :
    LiftsTo (performRounds count first s) (performRounds count first u) := by
  induction count generalizing first s u with
  | zero => exact h.next
  | succ count ih => exact andThen_liftsTo (performRound_liftsTo h first) fun _ _ hab => ih hab (first + 1)

theorem performCompress_liftsTo : LiftsTo (performCompress s) (performCompress u) := by
  refine andThen_liftsTo (andThen_liftsTo (performWsinit_liftsTo h) fun a b hab => ?_) fun _ _ => performChain_liftsTo
  simp only [hab.variant]
  exact performRounds_liftsTo hab _ _

theorem advanceBlk_standsFor : (advanceBlk s).StandsFor (advanceBlk u) := by
  rw [advanceBlk, advanceBlk, h.blk]
  exact h.setBlk _

theorem performStep_liftsTo : LiftsTo (performStep s) (performStep u) :=
  andThen_liftsTo (andThen_liftsTo (performExpand_liftsTo h) fun _ _ => performCompress_liftsTo)
    fun _ _ hab => (advanceBlk_standsFor hab).next

theorem performSteps_liftsTo (count : Nat) : LiftsTo (performSteps count s) (performSteps count u) := by
  induction count generalizing s u with
  | zero => exact h.next
  | succ count ih => exact andThen_liftsTo (performStep_liftsTo h) fun _ _ => ih

theorem performIterate_liftsTo : LiftsTo (performIterate s) (performIterate u) := by
  rw [performIterate, performIterate, h.nblk, h.blk]
  exact performSteps_liftsTo h _

theorem initEffect_standsFor (v : Variant) : (initEffect v s).StandsFor (initEffect v u) := by
  rw [initEffect, initEffect, h.status]
  exact ((((h.setVariant v).setH (CellsAgree.writeFirst h.h _)).setNblk _).setBlk _).setStatus _

theorem padEffect_standsFor : (padEffect s).StandsFor (padEffect u) := by
  rw [padEffect, padEffect, h.len, h.variant, h.status]
  exact (((h.setMsg (BytesAgree.writeBytes h.msg _ _)).setNblk _).setBlk _).setStatus _

theorem sresetEffect_standsFor : (sresetEffect s).StandsFor (sresetEffect u) := by
  rw [sresetEffect, sresetEffect, h.status]
  exact (((((h.setStatus _).setVariant _).setLen _).setNblk _).setBlk _).setLastCmd _

theorem performRun_liftsTo (v : Variant) : LiftsTo (performRun v s) (performRun v u) :=
  andThen_liftsTo (performIterate_liftsTo (padEffect_standsFor (initEffect_standsFor h v)))
    fun _ _ => performFinal_liftsTo

theorem fits_eq (v : Variant) : fits v u = fits v s := by rw [fits, fits, h.len, h.params]

theorem hasBlock_eq : hasBlock u = hasBlock s := by rw [hasBlock, hasBlock, h.blk, h.nblk]

theorem execInit_liftsTo (w : BitVec 2) : LiftsTo (execInit w s) (execInit w u) := by
  unfold execInit
  split
  · exact (initEffect_standsFor h _).next
  · exact raise_liftsTo h _

theorem execRun_liftsTo (w : BitVec 2) : LiftsTo (execRun w s) (execRun w u) := by
  unfold execRun
  split
  · rw [fits_eq h]
    exact ite_raise_liftsTo h (performRun_liftsTo h _)
  · exact raise_liftsTo h _

/-- A command that completes in `s` completes alike in every state that `s` stands for. -/
theorem exec_liftsTo (i : Instr) : LiftsTo (exec i s) (exec i u) := by
  cases i with
  | nop => exact h.next
  | rotl32 n => exact rotateInto_liftsTo h fun hw => by rw [h.rotIn hw]
  | rotr32 n => exact rotateInto_liftsTo h fun hw => by rw [h.rotIn hw]
  | rotl64 n => exact rotateInto_liftsTo h fun hw => by rw [h.rotIn hw]
  | rotr64 n => exact rotateInto_liftsTo h fun hw => by rw [h.rotIn hw]
  | init w => exact execInit_liftsTo h w
  | pad =>
    simp only [exec, execPad, h.variant, fits_eq h]
    exact requireValid_liftsTo h (ite_raise_liftsTo h (padEffect_standsFor h).next)
  | expand =>
    simp only [exec, execExpand, hasBlock_eq h]
    exact requireValid_liftsTo h (ite_raise_liftsTo h (performExpand_liftsTo h))
  | wsinit => exact requireValid_liftsTo h (performWsinit_liftsTo h)
  | round t =>
    simp only [exec, execRound, h.variant]
    exact requireValid_liftsTo h (ite_raise_liftsTo h (performRound_liftsTo h _))
  | chain => exact requireValid_liftsTo h (performChain_liftsTo h)
  | compress => exact requireValid_liftsTo h (performCompress_liftsTo h)
  | step =>
    simp only [exec, execStep, hasBlock_eq h]
    exact requireValid_liftsTo h (ite_raise_liftsTo h (performStep_liftsTo h))
  | iterate =>
    simp only [exec, execIterate, h.status]
    exact requireValid_liftsTo h (ite_raise_liftsTo h (performIterate_liftsTo h))
  | final => exact requireValid_liftsTo h (performFinal_liftsTo h)
  | run w => exact execRun_liftsTo h w
  | clrerr =>
    simp only [exec, execClrerr, clearErrors, h.status]
    exact (h.setStatus _).next
  | sreset => exact (sresetEffect_standsFor h).next

/-! ### The engine -/

theorem performWord_liftsTo (c : CmdWord) : LiftsTo (performWord c s) (performWord c u) := by
  have hrej : rejected c u = rejected c s := by rw [rejected, rejected, h.status]
  rw [performWord, performWord, hrej]
  split
  · exact h.next
  · split
    · exact exec_liftsTo h _
    · exact raise_liftsTo h _

theorem finishStep_liftsTo : LiftsTo (finishStep s) (finishStep u) := by
  rw [finishStep, finishStep, h.status]
  exact (h.setStatus _).next

theorem engineMove_liftsTo : LiftsTo (engineMove s) (engineMove u) := by
  simp only [engineMove, engineStep, h.status, h.pending]
  split
  · split
    · exact andThen_liftsTo (performWord_liftsTo (h.setPending none) _) fun _ _ => finishStep_liftsTo
    · rintro t ⟨⟩
  · exact h.next

/-! ### The host and the reset event -/

theorem reply_standsFor (r : Reply) : (reply r s).StandsFor (reply r u) := by
  rw [reply, reply, h.host]
  exact h.setHost _

theorem drawn_standsFor : (drawn s).StandsFor (drawn u) := by
  rw [drawn, drawn, h.host]
  exact h.setHost _

theorem setAerr_standsFor : (setAerr s).StandsFor (setAerr u) := by
  rw [setAerr, setAerr, h.status]
  exact h.setStatus _

theorem setOvr_standsFor : (setOvr s).StandsFor (setOvr u) := by
  rw [setOvr, setOvr, h.status]
  exact h.setStatus _

theorem withTodo_standsFor (todo : List Event) : (withTodo todo s).StandsFor (withTodo todo u) := by
  rw [withTodo, withTodo, h.host]
  exact h.setHost _

theorem regRead_liftsTo (i : BitVec 16) : LiftsTo (regRead i s) (regRead i u) := by
  simp only [regRead, h.status, h.host]
  split
  · exact (reply_standsFor (setAerr_standsFor h) _).next
  · split
    · exact (drawn_standsFor (reply_standsFor h _)).next
    · refine needWritten_liftsTo h fun hw => ?_
      rw [h.regValue_eq hw]
      exact (reply_standsFor h _).next

theorem byteRead_liftsTo {bound a : Nat} {id : CellId} {m m' : Memory}
    (hm : s.isWritten id = true → m'.byteAt a = m.byteAt a) :
    LiftsTo (byteRead bound a id m s) (byteRead bound a id m' u) := by
  simp only [byteRead, h.status, h.host]
  split
  · exact (reply_standsFor (setAerr_standsFor h) _).next
  · split
    · exact (drawn_standsFor (reply_standsFor h _)).next
    · refine needWritten_liftsTo h fun hw => ?_
      rw [hm (hw id (List.mem_singleton_self _))]
      exact (reply_standsFor h _).next

theorem storeReg_standsFor (r : RegId) (v : Word) : (storeReg r v s).StandsFor (storeReg r v u) := by
  cases r with
  | cmd =>
    simp only [storeReg, latch, h.status]
    exact ((h.setPending _).setLastCmd _).setStatus _
  | status => exact h
  | variant => exact h
  | len => exact h.setLen v
  | nblk => exact h
  | blk => exact h.setBlk v
  | rotIn => exact h.setRotIn _
  | rotOut => exact h
  | msgcap => exact h
  | config => exact h
  | h i => exact h.setH (CellsAgree.set h.h _ _ _)
  | ws i => exact h.setWs (CellsAgree.set h.ws _ _ _)
  | w i => exact h.setW (CellsAgree.set h.w _ _ _)

theorem regWrite_standsFor (i : BitVec 16) (v : Word) : (regWrite i v s).StandsFor (regWrite i v u) := by
  simp only [regWrite, h.status]
  split
  · exact setAerr_standsFor h
  · split
    · exact h
    · split
      · exact setOvr_standsFor h
      · exact storeReg_standsFor h _ v

theorem msgWrite_standsFor (a : Nat) (b : Byte) : (msgWrite a b s).StandsFor (msgWrite a b u) := by
  simp only [msgWrite, h.params, h.status]
  split
  · exact setAerr_standsFor h
  · split
    · exact setOvr_standsFor h
    · exact h.setMsg (BytesAgree.write h.msg a b)

theorem hostStep_liftsTo (op : HostOp) : LiftsTo (hostStep op s) (hostStep op u) := by
  cases op with
  | regRead i => exact regRead_liftsTo h i
  | regWrite i v => exact (regWrite_standsFor h i v).next
  | msgRead a =>
    simp only [hostStep, msgRead, h.params]
    exact byteRead_liftsTo h (BytesAgree.byteAt h.msg)
  | msgWrite a b => exact (msgWrite_standsFor h a b).next
  | digRead a => exact byteRead_liftsTo h (BytesAgree.byteAt h.dig)

theorem resetEvent_eq : resetEvent u = resetEvent s := by rw [resetEvent, resetEvent, h.params, h.host]

theorem performEvent_liftsTo (e : Event) : LiftsTo (performEvent e s) (performEvent e u) := by
  cases e with
  | host op => exact hostStep_liftsTo h op
  | engine => exact engineMove_liftsTo h
  | reset =>
    rw [performEvent, performEvent, resetEvent_eq h]
    exact (State.StandsFor.refl _).next

theorem step_liftsTo : LiftsTo (step s) (step u) := by
  simp only [step, transition, h.host]
  split
  · exact performEvent_liftsTo (withTodo_standsFor h _) _
  · exact engineMove_liftsTo h

end Commands

/-- Settles O59: the step, like each of its parts, lifts along `StandsFor`. -/
theorem unwrittenContentsNeverMatter : Obligations.UnwrittenContentsNeverMatter :=
  fun _ _ _ h ht => step_liftsTo h _ ht

end Sys2Proof.Machine
end

section
/-! SUPPORT. A hardware that a state stands for: every cell marked unwritten is given a value, and then every transition
completes (00_scope.md R13, 60_exceptions.md R266). -/

namespace Sys2Proof.Machine

/-! ### Giving every cell a value -/

/-- The cell with its mark cleared: it holds the value that stood beside the mark. -/
def DataCell.filled (d : DataCell) : DataCell := DataCell.ofWord d.val

/-- The buffer with every cell below `bound` written, with 0 where it was not. -/
def Memory.filled (m : Memory) (bound : Nat) : Memory := m.writeBytes 0 ((List.range bound).map m.byteAt)

/-- One hardware that the state stands for: every data cell that exists is written. -/
def State.filled (s : State) : State :=
  { s with
    rotIn := s.rotIn.filled
    rotOut := s.rotOut.filled
    h := s.h.map DataCell.filled
    ws := s.ws.map DataCell.filled
    w := s.w.map DataCell.filled
    msg := s.msg.filled s.params.msgCap
    dig := s.dig.filled 64 }

theorem DataCell.filled_of_written {d : DataCell} (h : d.written = true) : d.filled = d := by
  cases d
  cases h
  rfl

theorem cellWritten_map_filled {n : Nat} (f : Vector DataCell n) {i : Nat} (hi : i < n) :
    cellWritten (f.map DataCell.filled) i = true := by
  simp [cellWritten, hi, DataCell.filled, DataCell.ofWord]

theorem cellValue_map_filled {n : Nat} (f : Vector DataCell n) (i : Nat) :
    cellValue (f.map DataCell.filled) i = cellValue f i := by
  by_cases hi : i < n
  · simp [cellValue, hi, DataCell.filled, DataCell.ofWord]
  · simp [cellValue, hi]

/-- A cell beyond the file counts as unwritten. -/
theorem lt_of_cellWritten {n : Nat} {f : Vector DataCell n} {i : Nat} (h : cellWritten f i = true) : i < n := by
  by_contra hi
  simp [cellWritten, hi, DataCell.unwritten] at h

theorem cellsAgree_filled {n : Nat} (f : Vector DataCell n) : CellsAgree f (f.map DataCell.filled) :=
  fun i hi => ⟨cellWritten_map_filled f (lt_of_cellWritten hi), cellValue_map_filled f i⟩

theorem Memory.read_filled (m : Memory) (bound k : Nat) :
    (m.filled bound).read k = if k < bound then some (m.byteAt k) else m.read k := by
  rw [Memory.filled, Memory.read_writeBytes]
  by_cases hk : k < bound <;> simp [hk]

theorem Memory.isSome_read_filled (m : Memory) {bound k : Nat} (hk : k < bound) :
    ((m.filled bound).read k).isSome = true := by
  rw [Memory.read_filled, if_pos hk]
  rfl

theorem bytesAgree_filled (m : Memory) (bound : Nat) : BytesAgree m (m.filled bound) := by
  intro a b hb
  rw [Memory.read_filled]
  split
  · rw [Memory.byteAt, hb]
    rfl
  · exact hb

theorem Memory.wf_filled {m : Memory} (h : m.wf) (bound : Nat) : (m.filled bound).wf := Memory.wf_writeBytes h _ _

theorem Memory.below_filled {m : Memory} {bound : Nat} (h : m.below bound) : (m.filled bound).below bound :=
  Memory.below_writeBytes h (by simp)

theorem State.filled_standsFor (s : State) : s.StandsFor s.filled where
  lastCmd := rfl
  pending := rfl
  status := rfl
  variant := rfl
  len := rfl
  nblk := rfl
  blk := rfl
  params := rfl
  host := rfl
  rotIn := DataCell.filled_of_written
  rotOut := DataCell.filled_of_written
  h := cellsAgree_filled s.h
  ws := cellsAgree_filled s.ws
  w := cellsAgree_filled s.w
  msg := bytesAgree_filled s.msg _
  dig := bytesAgree_filled s.dig _

theorem State.filled_allWritten (s : State) : s.filled.AllWritten :=
  ⟨rfl, rfl, fun _ hi => ⟨cellWritten_map_filled s.h hi, cellWritten_map_filled s.ws hi⟩,
    fun _ hi => cellWritten_map_filled s.w hi, fun _ ha _ => Memory.isSome_read_filled s.msg ha,
    fun _ ha => Memory.isSome_read_filled s.dig ha⟩

theorem State.filled_inv {s : State} (h : s.Inv) : s.filled.Inv := by
  obtain ⟨hparams, hpending, ⟨hmsg, hmsgBelow, hdig, hdigBelow⟩, hpadded, hfit, -, hflags, -⟩ := h
  exact ⟨hparams, hpending,
    ⟨Memory.wf_filled hmsg _, Memory.below_filled hmsgBelow, Memory.wf_filled hdig _, Memory.below_filled hdigBelow⟩,
    hpadded, hfit, fun _ _ hi => cellWritten_map_filled s.h hi, hflags,
    fun _ _ ha => Memory.isSome_read_filled s.dig ha⟩

/-! ### Every step completes on written cells -/

theorem next_completes (s : State) : Completes (.next s) := ⟨s, rfl⟩

theorem needWritten_completes {cells : List CellId} {s : State} {r : Result} (hr : Completes r)
    (hw : ∀ c ∈ cells, s.isWritten c = true) : Completes (needWritten cells s r) := by
  rwa [needWritten_of_written _ hw]

theorem ite_raise_completes {p : Prop} [Decidable p] {s : State} {r : Result} {e : ErrCode}
    (hr : p → Completes r) : Completes (if p then r else raise e s) := by
  split
  · exact hr ‹p›
  · exact next_completes _

theorem requireValid_completes {s : State} {r : Result} (hr : Completes r) : Completes (requireValid s r) :=
  ite_raise_completes fun _ => hr

namespace State.AllWritten

variable {s : State}

theorem hashWritten (h : s.AllWritten) : s.HashWritten := fun i hi => by
  obtain ⟨-, -, hfiles, -⟩ := h
  exact (hfiles i (Nat.lt_of_lt_of_le hi (stateWords_le _))).1

theorem workWritten (h : s.AllWritten) : s.WorkWritten := fun i hi => by
  obtain ⟨-, -, hfiles, -⟩ := h
  exact (hfiles i (Nat.lt_of_lt_of_le hi (stateWords_le _))).2

theorem scheduleWritten (h : s.AllWritten) : s.ScheduleWritten := fun i hi => by
  obtain ⟨-, -, -, hw, -⟩ := h
  exact hw i (Nat.lt_of_lt_of_le hi (rounds_le _))

theorem msgWritten (h : s.AllWritten) {lo hi : Nat} (hcap : hi ≤ s.params.msgCap) : s.MsgWritten lo hi :=
  fun a ha _ => by
    obtain ⟨-, -, -, -, hmsg, -⟩ := h
    exact hmsg a (Nat.lt_of_lt_of_le ha hcap) (Nat.zero_le a)

/-- A block below NBLK lies inside MSG. -/
theorem blockWritten (h : s.AllWritten) (hfit : s.BlocksFit) (hb : hasBlock s = true) : s.BlockWritten := by
  have hlt : s.blk.toNat + 1 ≤ s.nblk.toNat := by simpa [hasBlock] using hb
  have hend := Nat.mul_le_mul_right (blockBytes s.variant) hlt
  rw [Nat.add_mul] at hend
  exact h.msgWritten (by rw [blockStart]; omega)

/-- The registers' cells exist. -/
theorem regReads_written (h : s.AllWritten) (r : RegId) : ∀ c ∈ regReads r, s.isWritten c = true := by
  obtain ⟨hrotIn, hrotOut, hfiles, hw, -⟩ := h
  cases r <;> simp only [regReads, List.mem_singleton, List.not_mem_nil, forall_eq, false_implies, implies_true]
  case rotIn => exact hrotIn
  case rotOut => exact hrotOut
  case h i => exact (hfiles i i.isLt).1
  case ws i => exact (hfiles i i.isLt).2
  case w i => exact hw i i.isLt

end State.AllWritten

theorem performIterate_completes {s : State} (hh : s.HashWritten)
    (hm : s.MsgWritten 0 (s.nblk.toNat * blockBytes s.variant)) :
    ∃ t, performIterate s = .next t ∧ DataStep s t := by
  have hblk := s.blk.isLt
  have hnblk := s.nblk.isLt
  obtain ⟨t, ht, hd, -⟩ := performSteps_completes (count := s.nblk.toNat - s.blk.toNat) hh (by omega)
    fun a ha hlo => by
      rcases Nat.le_total s.blk.toNat s.nblk.toNat with hle | hle
      · rw [Nat.add_sub_cancel' hle] at ha
        exact hm a ha (Nat.zero_le a)
      · rw [Nat.sub_eq_zero_of_le hle, Nat.add_zero] at ha
        omega
  exact ⟨t, ht, hd⟩

/-- The blocks that PAD counts lie inside the padded message. -/
theorem padEffect_nblk_le (s : State) :
    (padEffect s).nblk.toNat * blockBytes s.variant ≤ padLen s.variant s.len.toNat := by
  have hn : (padEffect s).nblk.toNat ≤ padLen s.variant s.len.toNat / blockBytes s.variant := by
    simp only [padEffect, State.setStatus_nblk, State.setBlk_nblk, State.setNblk_nblk, BitVec.toNat_ofNat]
    exact Nat.mod_le _ _
  exact (Nat.mul_le_mul_right _ hn).trans (Nat.div_mul_le_self _ _)

theorem performRun_completes {s : State} {v : Variant} (h : s.AllWritten) (hf : fits v s = true) :
    Completes (performRun v s) := by
  have hcap : padLen v s.len.toNat ≤ s.params.msgCap := by simpa [fits] using hf
  have hh : (padEffect (initEffect v s)).HashWritten := fun i hi =>
    initEffect_hashWritten v s i (Nat.lt_of_lt_of_le hi (stateWords_le _))
  obtain ⟨t, ht, hd⟩ := performIterate_completes hh fun a ha hlo =>
    isWritten_padInit (c := .msg a)
      (h.msgWritten ((padEffect_nblk_le (initEffect v s)).trans hcap) a ha hlo)
  rw [performRun, ht, andThen_next, performFinal_eq (hd.hashWritten hh)]
  exact next_completes _

/-- Every command completes where every data cell is written and the blocks lie inside MSG. -/
theorem exec_completes {s : State} (h : s.AllWritten) (hfit : s.BlocksFit) (i : Instr) : Completes (exec i s) := by
  have hrot {w : Nat} {n : BitVec 8} {x : Word} : Completes (rotateInto w n x s) :=
    ite_raise_completes fun _ => needWritten_completes (next_completes _) (h.regReads_written .rotIn)
  cases i with
  | nop => exact next_completes _
  | rotl32 n => exact hrot
  | rotr32 n => exact hrot
  | rotl64 n => exact hrot
  | rotr64 n => exact hrot
  | init w =>
    simp only [exec, execInit]
    split <;> exact next_completes _
  | pad => exact requireValid_completes (ite_raise_completes fun _ => next_completes _)
  | expand =>
    exact requireValid_completes (ite_raise_completes fun hb => ⟨_, performExpand_eq (h.blockWritten hfit hb)⟩)
  | wsinit => exact requireValid_completes ⟨_, performWsinit_eq h.hashWritten⟩
  | round t =>
    exact requireValid_completes
      (ite_raise_completes fun ht => ⟨_, performRound_eq h.workWritten (h.scheduleWritten _ ht)⟩)
  | chain => exact requireValid_completes ⟨_, performChain_eq h.hashWritten h.workWritten⟩
  | compress =>
    obtain ⟨t, ht, -⟩ := performCompress_completes h.hashWritten h.scheduleWritten
    exact requireValid_completes ⟨t, ht⟩
  | step =>
    refine requireValid_completes (ite_raise_completes fun hb => ?_)
    obtain ⟨t, ht, -⟩ := performStep_completes (h.blockWritten hfit hb) h.hashWritten
    exact ⟨t, ht⟩
  | iterate =>
    refine requireValid_completes (ite_raise_completes fun _ => ?_)
    obtain ⟨t, ht, -⟩ := performIterate_completes h.hashWritten (h.msgWritten hfit)
    exact ⟨t, ht⟩
  | final => exact requireValid_completes ⟨_, performFinal_eq h.hashWritten⟩
  | run w =>
    simp only [exec, execRun]
    split
    · exact ite_raise_completes fun hf => performRun_completes h hf
    · exact next_completes _
  | clrerr => exact next_completes _
  | sreset => exact next_completes _

theorem performWord_completes {s : State} (h : s.AllWritten) (hfit : s.BlocksFit) (c : CmdWord) :
    Completes (performWord c s) := by
  unfold performWord
  split
  · exact next_completes _
  · split
    · exact exec_completes h hfit _
    · exact next_completes _

theorem engineMove_completes {s : State} (h : s.AllWritten) (hfit : s.BlocksFit) (hp : s.PendingIffBusy) :
    Completes (engineMove s) := by
  unfold engineMove
  split
  · rename_i hbusy
    obtain ⟨c, hc⟩ := Option.isSome_iff_exists.mp (hp.symm.trans hbusy)
    obtain ⟨t, ht⟩ := performWord_completes (s := s.setPending none) h hfit c
    simp only [engineStep, hc, ht, andThen_next, finishStep]
    exact next_completes _
  · exact next_completes _

theorem regRead_completes {s : State} (h : s.AllWritten) (i : BitVec 16) : Completes (regRead i s) := by
  unfold regRead
  split
  · exact next_completes _
  · split
    · exact next_completes _
    · exact needWritten_completes (next_completes _) (h.regReads_written _)

theorem byteRead_completes {s : State} {bound a : Nat} {id : CellId} {m : Memory}
    (hw : a < bound → s.isWritten id = true) : Completes (byteRead bound a id m s) := by
  unfold byteRead
  split
  · exact next_completes _
  · split
    · exact next_completes _
    · refine needWritten_completes (next_completes _) (List.forall_mem_singleton.mpr (hw ?_))
      omega

theorem hostStep_completes {s : State} (h : s.AllWritten) (op : HostOp) : Completes (hostStep op s) := by
  cases op with
  | regRead i => exact regRead_completes h i
  | regWrite i v => exact next_completes _
  | msgRead a => exact byteRead_completes fun ha => h.msgWritten le_rfl a ha (Nat.zero_le a)
  | msgWrite a b => exact next_completes _
  | digRead a =>
    obtain ⟨-, -, -, -, -, hdig⟩ := h
    exact byteRead_completes fun ha => hdig a ha

/-- No transition stops where every data cell is written (60_exceptions.md R266). -/
theorem step_completes {s : State} (hinv : s.Inv) (h : s.AllWritten) : Completes (step s) := by
  obtain ⟨-, hpending, -, -, hfit, -⟩ := hinv
  unfold step transition
  split
  · rename_i e rest _
    cases e with
    | host op => exact hostStep_completes (s := withTodo rest s) h op
    | engine => exact engineMove_completes (s := withTodo rest s) h hfit hpending
    | reset => exact next_completes _
  · exact engineMove_completes h hfit hpending

/-! ### The hardware's transitions -/

theorem hardwareStep_exists {s : State} (h : s.Inv) : ∃ v, HardwareStep s v := by
  obtain ⟨v, hv⟩ := step_completes (State.filled_inv h) s.filled_allWritten
  exact ⟨v, s.filled, s.filled_standsFor, s.filled_allWritten, State.filled_inv h, hv⟩

theorem standsFor_of_hardwareStep {s t v : State} (ht : step s = .next t) (hv : HardwareStep s v) : t.StandsFor v := by
  obtain ⟨u, hsu, -, -, hu⟩ := hv
  obtain ⟨v', hv', htv⟩ := step_liftsTo hsu t ht
  rw [hu] at hv'
  cases hv'
  exact htv

/-- Settles O60: `State.filled` is a hardware that goes on, and every hardware's step is the model's by `step_liftsTo`. -/
theorem hardwareGoesOnWhereTheModelFaults : Obligations.HardwareGoesOnWhereTheModelFaults :=
  fun _ h => ⟨hardwareStep_exists h, fun _ _ => standsFor_of_hardwareStep⟩

end Sys2Proof.Machine
end

section
/-! SUPPORT. What a transition can do, said once: the inversion of a host operation, of the engine's move and of the
step, from which the facts about every transition follow. -/

namespace Sys2Proof.Machine

/-! ### The event that moves -/

theorem popEvent_of_no_event {s : State} (h : s.host.todo = []) : popEvent s = s := by
  simp only [popEvent, h, List.tail_nil]
  rw [withTodo, ← h]
  rfl

/-- A step performs the next event, and the engine's move where none is listed (logs 1, 4). -/
theorem step_eq_performEvent (s : State) : step s = performEvent (s.host.todo.head?.getD .engine) (popEvent s) := by
  unfold step transition
  split
  · rename_i e rest htodo
    simp only [popEvent, htodo, List.tail_cons, List.head?_cons, Option.getD_some]
  · rename_i htodo
    simp only [popEvent_of_no_event htodo, htodo, List.head?_nil, Option.getD_none, performEvent]

theorem isWritten_popEvent (s : State) (c : CellId) : (popEvent s).isWritten c = s.isWritten c := by cases c <;> rfl

/-! ### Unwritten marks -/

/-- No cell that is written in `s` is marked unwritten in `t`. By default a field counts as unchanged, so that an
effect names the files it writes. -/
structure MarksKept (s t : State) : Prop where
  rotIn : s.rotIn.written = true → t.rotIn.written = true := by exact id
  rotOut : s.rotOut.written = true → t.rotOut.written = true := by exact id
  h : ∀ i, cellWritten s.h i = true → cellWritten t.h i = true := by exact fun _ => id
  ws : ∀ i, cellWritten s.ws i = true → cellWritten t.ws i = true := by exact fun _ => id
  w : ∀ i, cellWritten s.w i = true → cellWritten t.w i = true := by exact fun _ => id
  msg : ∀ a, (s.msg.read a).isSome = true → (t.msg.read a).isSome = true := by exact fun _ => id
  dig : ∀ a, (s.dig.read a).isSome = true → (t.dig.read a).isSome = true := by exact fun _ => id

theorem marksKept_iff {s t : State} : MarksKept s t ↔ ∀ c, s.isWritten c = true → t.isWritten c = true := by
  constructor
  · intro h c hc
    cases c with
    | rotIn => exact h.rotIn hc
    | rotOut => exact h.rotOut hc
    | h i => exact h.h i hc
    | ws i => exact h.ws i hc
    | w i => exact h.w i hc
    | msg a => exact h.msg a hc
    | dig a => exact h.dig a hc
  · intro h
    exact ⟨h .rotIn, h .rotOut, fun i => h (.h i), fun i => h (.ws i), fun i => h (.w i), fun a => h (.msg a),
      fun a => h (.dig a)⟩

theorem MarksKept.trans {s t u : State} (h : MarksKept s t) (k : MarksKept t u) : MarksKept s u :=
  marksKept_iff.mpr fun c hc => marksKept_iff.mp k c (marksKept_iff.mp h c hc)

theorem DataStep.marksKept {s t : State} (h : DataStep s t) : MarksKept s t := marksKept_iff.mpr fun _ => h.isWritten

/-! ### Host operations -/

/-- The ways a host operation can end in a next state: a read, or a write that is dropped or ignored, changes OVR, AERR
and the host port at most; a write is taken only while BUSY = 0 (20_memory.md R62 to R66, R75). -/
inductive HostEnds (s : State) : State → Prop
  | noted (ovr aerr : Bool) (p : HostPort) :
    HostEnds s ((s.setStatus { s.status with ovr := ovr, aerr := aerr }).setHost p)
  | stored (r : RegId) (v : Word) (hr : readOnly r = false) (hb : s.status.busy = false) : HostEnds s (storeReg r v s)
  | msgStored (a : Nat) (b : Byte) (ha : a < s.params.msgCap) (hb : s.status.busy = false) :
    HostEnds s (s.setMsg (s.msg.write a b))

namespace HostEnds

variable (s : State)

theorem same : HostEnds s s := noted s.status.ovr s.status.aerr s.host
theorem replied (r : Reply) : HostEnds s (reply r s) := noted s.status.ovr s.status.aerr _
theorem drawnReply (r : Reply) : HostEnds s (drawn (reply r s)) := noted s.status.ovr s.status.aerr _
theorem aerr : HostEnds s (setAerr s) := noted s.status.ovr true s.host
theorem ovr : HostEnds s (setOvr s) := noted true s.status.aerr s.host
theorem aerrReply (r : Reply) : HostEnds s (reply r (setAerr s)) := noted s.status.ovr true _

end HostEnds

theorem regRead_next {i : BitVec 16} {s t : State} (h : regRead i s = .next t) : HostEnds s t := by
  unfold regRead at h
  split at h
  · cases h; exact .aerrReply s _
  · split at h
    · cases h; exact .drawnReply s _
    · cases (needWritten_next h).1; exact .replied s _

theorem byteRead_next {bound a : Nat} {id : CellId} {m : Memory} {s t : State}
    (h : byteRead bound a id m s = .next t) : HostEnds s t := by
  unfold byteRead at h
  split at h
  · cases h; exact .aerrReply s _
  · split at h
    · cases h; exact .drawnReply s _
    · cases (needWritten_next h).1; exact .replied s _

theorem regWrite_ends (i : BitVec 16) (v : Word) (s : State) : HostEnds s (regWrite i v s) := by
  unfold regWrite
  split
  · exact .aerr s
  · split
    · exact .same s
    · rename_i hr
      split
      · exact .ovr s
      · rename_i hb
        exact .stored _ v (eq_false_of_ne_true hr) (eq_false_of_ne_true hb)

theorem msgWrite_ends (a : Nat) (b : Byte) (s : State) : HostEnds s (msgWrite a b s) := by
  unfold msgWrite
  split
  · exact .aerr s
  · rename_i ha
    split
    · exact .ovr s
    · rename_i hb
      exact .msgStored a b (not_le.mp ha) (eq_false_of_ne_true hb)

/-- What a host operation that answers a next state has done. -/
theorem hostStep_next {op : HostOp} {s t : State} (h : hostStep op s = .next t) : HostEnds s t := by
  cases op with
  | regRead i => exact regRead_next h
  | regWrite i v => cases h; exact regWrite_ends i v s
  | msgRead a => exact byteRead_next h
  | msgWrite a b => cases h; exact msgWrite_ends a b s
  | digRead a => exact byteRead_next h

theorem regRead_faults (i : BitVec 16) (s : State) : FaultsOnUnwritten s (regRead i s) := by
  unfold regRead
  split
  · rintro f ⟨⟩
  · split
    · rintro f ⟨⟩
    · exact needWritten_faults

theorem byteRead_faults (bound a : Nat) (id : CellId) (m : Memory) (s : State) :
    FaultsOnUnwritten s (byteRead bound a id m s) := by
  unfold byteRead
  split
  · rintro f ⟨⟩
  · split
    · rintro f ⟨⟩
    · exact needWritten_faults

/-- A host operation faults on an unwritten cell only (60_exceptions.md R266). -/
theorem hostStep_faults (op : HostOp) (s : State) : FaultsOnUnwritten s (hostStep op s) := by
  cases op with
  | regRead i => exact regRead_faults i s
  | regWrite i v => rintro f ⟨⟩
  | msgRead a => exact byteRead_faults _ a _ _ s
  | msgWrite a b => rintro f ⟨⟩
  | digRead a => exact byteRead_faults _ a _ _ s

/-! ### The engine -/

/-- Performing a word ends as a command can end: a rejected word does what NOP does, and a malformed one raises an
error (60_exceptions.md R262, R263). -/
theorem performWord_next {c : CmdWord} {s t : State} (h : performWord c s = .next t) : ∃ i, CommandEnds i s t := by
  unfold performWord at h
  split at h
  · cases h; exact ⟨.nop, exec_next rfl⟩
  · split at h
    · exact ⟨_, exec_next h⟩
    · cases h; exact ⟨.nop, .raised _ (by decide)⟩

theorem performWord_faults (c : CmdWord) (s : State) : FaultsOnUnwritten s (performWord c s) := by
  unfold performWord
  split
  · rintro f ⟨⟩
  · split
    · exact exec_faults _ s
    · rintro f ⟨⟩

/-- What an engine's move that answers a next state has done: nothing while BUSY = 0; otherwise it has taken the pending
word, performed it and cleared BUSY (30_encoding.md R97). -/
theorem engineMove_next {s t : State} (h : engineMove s = .next t) :
    s.status.busy = false ∧ t = s ∨
      s.status.busy = true ∧ ∃ c u, s.pending = some c ∧ performWord c (s.setPending none) = .next u ∧
        t = u.setStatus (u.status.withBusy false) := by
  unfold engineMove at h
  split at h
  · rename_i hbusy
    unfold engineStep at h
    split at h
    · rename_i c hc
      obtain ⟨u, hu, hfin⟩ := andThen_eq_next h
      cases hfin
      exact .inr ⟨hbusy, c, u, hc, hu, rfl⟩
    · cases h
  · rename_i hbusy
    cases h
    exact .inl ⟨eq_false_of_ne_true hbusy, rfl⟩

theorem isWritten_setPending (s : State) (p : Option CmdWord) (c : CellId) :
    (s.setPending p).isWritten c = s.isWritten c := by cases c <;> rfl

/-- Where PENDING is valid while BUSY = 1, the engine faults on an unwritten cell only (10_state.md R24). -/
theorem engineMove_faults {s : State} (hp : s.PendingIffBusy) : FaultsOnUnwritten s (engineMove s) := by
  intro f h
  unfold engineMove at h
  split at h
  · rename_i hbusy
    obtain ⟨c, hc⟩ := Option.isSome_iff_exists.mp (hp.symm.trans hbusy)
    simp only [engineStep, hc] at h
    rcases andThen_eq_fault h with h | ⟨u, -, h⟩
    · obtain ⟨id, rfl, hid⟩ := performWord_faults c _ f h
      exact ⟨id, rfl, by rwa [isWritten_setPending] at hid⟩
    · cases h
  · cases h

/-! ### What every command keeps -/

/-- No command changes the parameters (20_memory.md R73). -/
theorem CommandEnds.params {i : Instr} {s t : State} (h : CommandEnds i s t) : t.params = s.params := by
  cases h with
  | raised e he => rfl
  | data h hi hp => exact h.params
  | rotated r hi hp => rfl
  | inited v hi hp => rfl
  | padded hi hv hf => rfl
  | finalised hv hi hp => rfl
  | cleared hi => rfl
  | restarted hi => rfl
  | ran w hi v hv hf u hu hr => exact hu.params

/-- No command changes PENDING (20_memory.md R73). -/
theorem CommandEnds.pending {i : Instr} {s t : State} (h : CommandEnds i s t) : t.pending = s.pending := by
  cases h with
  | raised e he => rfl
  | data h hi hp => exact h.pending
  | rotated r hi hp => rfl
  | inited v hi hp => rfl
  | padded hi hv hf => rfl
  | finalised hv hi hp => rfl
  | cleared hi => rfl
  | restarted hi => rfl
  | ran w hi v hv hf u hu hr => exact hu.pending

theorem finalEffect_marksKept (s : State) : MarksKept s (finalEffect s) :=
  { dig := fun _ => Memory.isSome_read_writeBytes _ _ _ }

/-- No command sets an unwritten mark (10_state.md R21, 45_control.md R242). -/
theorem CommandEnds.marksKept {i : Instr} {s t : State} (h : CommandEnds i s t) : MarksKept s t := by
  cases h with
  | raised e he => exact {}
  | data h hi hp => exact h.marksKept
  | rotated r hi hp => exact { rotOut := fun _ => rfl }
  | inited v hi hp => exact { h := fun _ => cellWritten_writeFirst_of _ }
  | padded hi hv hf => exact { msg := fun _ => Memory.isSome_read_writeBytes _ _ _ }
  | finalised hv hi hp => exact finalEffect_marksKept s
  | cleared hi => exact {}
  | restarted hi => exact {}
  | ran w hi v hv hf u hu hr =>
    exact (marksKept_iff.mpr fun _ => isWritten_padInit).trans (hu.marksKept.trans (finalEffect_marksKept u))

/-! ### What every host operation keeps -/

theorem storeReg_params (r : RegId) (v : Word) (s : State) : (storeReg r v s).params = s.params := by cases r <;> rfl

theorem HostEnds.params {s t : State} (h : HostEnds s t) : t.params = s.params := by
  cases h with
  | noted ovr aerr p => rfl
  | stored r v hr hb => exact storeReg_params r v s
  | msgStored a b ha hb => rfl

theorem cellWritten_set_of {n : Nat} {f : Vector DataCell n} {i : Nat} (k : Nat) (hk : k < n) (v : Word)
    (h : cellWritten f i = true) : cellWritten (f.set k (DataCell.ofWord v) hk) i = true := by
  rw [cellWritten_set]
  split
  · rfl
  · exact h

theorem Memory.isSome_read_write {m : Memory} {k : Nat} (a : Nat) (b : Byte) (h : (m.read k).isSome = true) :
    ((m.write a b).read k).isSome = true :=
  m.isSome_read_writeBytes a [b] h

theorem storeReg_marksKept (r : RegId) (v : Word) (s : State) : MarksKept s (storeReg r v s) := by
  cases r with
  | rotIn => exact { rotIn := fun _ => rfl }
  | h i => exact { h := fun _ => cellWritten_set_of i.val i.isLt v }
  | ws i => exact { ws := fun _ => cellWritten_set_of i.val i.isLt v }
  | w i => exact { w := fun _ => cellWritten_set_of i.val i.isLt v }
  | _ => exact {}

/-- No host operation sets an unwritten mark (10_state.md R21). -/
theorem HostEnds.marksKept {s t : State} (h : HostEnds s t) : MarksKept s t := by
  cases h with
  | noted ovr aerr p => exact {}
  | stored r v hr hb => exact storeReg_marksKept r v s
  | msgStored a b ha hb => exact { msg := fun _ => Memory.isSome_read_write a b }

/-! ### What every engine's move keeps -/

theorem engineMove_params {s t : State} (h : engineMove s = .next t) : t.params = s.params := by
  obtain ⟨-, rfl⟩ | ⟨-, c, u, -, hu, rfl⟩ := engineMove_next h
  · rfl
  · obtain ⟨i, hends⟩ := performWord_next hu
    exact hends.params

theorem engineMove_marksKept {s t : State} (h : engineMove s = .next t) : MarksKept s t := by
  obtain ⟨-, rfl⟩ | ⟨-, c, u, -, hu, rfl⟩ := engineMove_next h
  · exact {}
  · obtain ⟨i, hends⟩ := performWord_next hu
    exact MarksKept.trans (t := s.setPending none) {} (hends.marksKept.trans {})

end Sys2Proof.Machine
end

section
/-! SUPPORT. The invariant of the block (10_state.md R24 to R28): every transition keeps it. -/

namespace Sys2Proof.Machine

/-! ### The invariant without PENDING -/

/-- The invariant but for `State.PendingIffBusy`, which does not hold between the taking of the pending word and the
clearing of BUSY, while the command runs. -/
structure State.BlockInv (s : State) : Prop where
  legal : s.params.legal = true
  buffers : s.BuffersWf
  padded : s.PaddedIffBlocks
  fit : s.BlocksFit
  hash : s.ValidHash
  flags : s.FlagsNeedValid
  digest : s.DoneDigest

theorem State.inv_iff {s : State} : s.Inv ↔ s.PendingIffBusy ∧ s.BlockInv := by
  constructor
  · rintro ⟨hparams, hpending, hbuffers, hpadded, hfit, hhash, hflags, hdigest⟩
    exact ⟨hpending, ⟨hparams, hbuffers, hpadded, hfit, hhash, hflags, hdigest⟩⟩
  · rintro ⟨hpending, h⟩
    exact ⟨h.legal, hpending, h.buffers, h.padded, h.fit, h.hash, h.flags, h.digest⟩

/-- `t` has the fields of `s` that `State.BlockInv` reads, and no unwritten mark has come back to H. By default a field
counts as unchanged. -/
structure SameBlock (s t : State) : Prop where
  params : t.params = s.params := by rfl
  variant : t.variant = s.variant := by rfl
  nblk : t.nblk = s.nblk := by rfl
  msg : t.msg = s.msg := by rfl
  dig : t.dig = s.dig := by rfl
  padded : t.status.padded = s.status.padded := by rfl
  valid : t.status.valid = s.status.valid := by rfl
  done : t.status.done = s.status.done := by rfl
  marksH : ∀ i, cellWritten s.h i = true → cellWritten t.h i = true := by exact fun _ => id

theorem DataStep.sameBlock {s t : State} (h : DataStep s t) : SameBlock s t where
  params := h.params
  variant := h.variant
  nblk := h.nblk
  msg := h.msg
  dig := h.dig
  padded := by rw [h.status]
  valid := by rw [h.status]
  done := by rw [h.status]
  marksH := h.marksH

theorem State.BlockInv.of_sameBlock {s t : State} (h : s.BlockInv) (k : SameBlock s t) : t.BlockInv where
  legal := by rw [k.params]; exact h.legal
  buffers := by simp only [State.BuffersWf, k.msg, k.dig, k.params]; exact h.buffers
  padded := by simp only [State.PaddedIffBlocks, k.padded, k.nblk]; exact h.padded
  fit := by simp only [State.BlocksFit, k.nblk, k.variant, k.params]; exact h.fit
  hash := fun hv i hi => k.marksH i (h.hash (k.valid ▸ hv) i hi)
  flags := by simp only [State.FlagsNeedValid, k.padded, k.valid, k.done]; exact h.flags
  digest := by simp only [State.DoneDigest, k.done, k.dig]; exact h.digest

/-! ### The number of blocks -/

theorem padLen_mod_blockBytes (v : Variant) (len : Nat) : padLen v len % blockBytes v = 0 := by
  cases v <;> simp only [padLen, zeroCount, blockBytes, lengthBytes] <;> omega

theorem blockBytes_pos (v : Variant) : 0 < blockBytes v := by cases v <;> decide

theorem padLen_pos (v : Variant) (len : Nat) : 0 < padLen v len := by rw [padLen]; omega

/-- A padded message has at least one block (41_padding.md R140). -/
theorem padLen_div_blockBytes_pos (v : Variant) (len : Nat) : 0 < padLen v len / blockBytes v :=
  Nat.div_pos (Nat.le_of_dvd (padLen_pos v len) (Nat.dvd_of_mod_eq_zero (padLen_mod_blockBytes v len)))
    (blockBytes_pos v)

theorem msgCap_le_of_legal {p : Params} (h : p.legal = true) : p.msgCap ≤ 2 ^ 61 := by
  simp only [Params.legal, decide_eq_true_eq] at h
  obtain ⟨-, -, hmax⟩ := h
  exact hmax

theorem padLen_le_of_fits {v : Variant} {s : State} (h : fits v s = true) :
    padLen v s.len.toNat ≤ s.params.msgCap := by
  simpa [fits] using h

/-- Where the padded message fits in MSG, NBLK holds the number of its blocks without reduction. -/
theorem padEffect_nblk_toNat {s : State} (hp : s.params.legal = true) (hf : fits s.variant s = true) :
    (padEffect s).nblk.toNat = padLen s.variant s.len.toNat / blockBytes s.variant := by
  have hcap := padLen_le_of_fits hf
  have hlegal := msgCap_le_of_legal hp
  have hdiv := Nat.div_le_self (padLen s.variant s.len.toNat) (blockBytes s.variant)
  show (BitVec.ofNat 64 _).toNat = _
  rw [BitVec.toNat_ofNat, Nat.mod_eq_of_lt (by omega)]

/-! ### The effects of the commands -/

theorem State.BlockInv.initEffect {s : State} (h : s.BlockInv) (v : Variant) : (initEffect v s).BlockInv where
  legal := h.legal
  buffers := h.buffers
  padded := rfl
  fit := by show 0 * _ ≤ _; omega
  hash := fun _ => initEffect_hashWritten v s
  flags := ⟨nofun, nofun⟩
  digest := nofun

theorem State.BlockInv.padEffect {s : State} (h : s.BlockInv) (hv : s.status.valid = true)
    (hf : fits s.variant s = true) : (padEffect s).BlockInv where
  legal := h.legal
  buffers := by
    obtain ⟨hmsg, hbelow, hdig⟩ := h.buffers
    have hend := paddingBytes_length s.variant s.len.toNat
    have hcap := padLen_le_of_fits hf
    exact ⟨Memory.wf_writeBytes hmsg _ _, Memory.below_writeBytes hbelow (hend.trans_le hcap), hdig⟩
  padded := by
    have hne : (Machine.padEffect s).nblk ≠ 0#64 := fun hzero => by
      have hpos := padLen_div_blockBytes_pos s.variant s.len.toNat
      rw [← padEffect_nblk_toNat h.legal hf, hzero] at hpos
      exact absurd hpos (by decide)
    exact (decide_eq_true hne).symm
  fit := (padEffect_nblk_le s).trans (padLen_le_of_fits hf)
  hash := h.hash
  flags := ⟨fun _ => hv, nofun⟩
  digest := nofun

theorem State.BlockInv.finalEffect {s : State} (h : s.BlockInv) (hv : s.status.valid = true) :
    (finalEffect s).BlockInv where
  legal := h.legal
  buffers := by
    obtain ⟨hmsg, hmsgBelow, hdig, hdigBelow⟩ := h.buffers
    exact ⟨hmsg, hmsgBelow, Memory.wf_writeBytes hdig _ _,
      Memory.below_writeBytes hdigBelow (by rw [digestImage_length])⟩
  padded := h.padded
  fit := h.fit
  hash := h.hash
  flags := ⟨fun _ => hv, fun _ => hv⟩
  digest := fun _ a ha => by
    have hin : 0 ≤ a ∧ a < 0 + (digestImage s).length := by rw [digestImage_length]; omega
    show ((s.dig.writeBytes 0 (digestImage s)).read a).isSome = true
    rw [Memory.read_writeBytes, if_pos hin]
    simpa using hin.2

theorem State.BlockInv.sresetEffect {s : State} (h : s.BlockInv) : (sresetEffect s).BlockInv where
  legal := h.legal
  buffers := h.buffers
  padded := rfl
  fit := by show 0 * _ ≤ _; omega
  hash := nofun
  flags := ⟨nofun, nofun⟩
  digest := nofun

/-- Every command keeps the invariant but for PENDING. -/
theorem CommandEnds.blockInv {i : Instr} {s t : State} (h : CommandEnds i s t) (hs : s.BlockInv) : t.BlockInv := by
  cases h with
  | raised e he => exact hs.of_sameBlock {}
  | data h hi hp => exact hs.of_sameBlock h.sameBlock
  | rotated r hi hp => exact hs.of_sameBlock {}
  | inited v hi hp => exact hs.initEffect v
  | padded hi hv hf => exact hs.padEffect hv hf
  | finalised hv hi hp => exact hs.finalEffect hv
  | cleared hi => exact hs.of_sameBlock {}
  | restarted hi => exact hs.sresetEffect
  | ran w hi v hv hf u hu hr =>
    have hpad : (padEffect (initEffect v s)).BlockInv := (hs.initEffect v).padEffect rfl hf
    refine (hpad.of_sameBlock hu.sameBlock).finalEffect ?_
    rw [hu.status]
    rfl

/-! ### The transitions -/

/-- An engine's move keeps the invariant: the pending word is taken at its start and BUSY is cleared at its end
(10_state.md R24, 30_encoding.md R97). -/
theorem engineMove_inv {s t : State} (h : engineMove s = .next t) (hs : s.Inv) : t.Inv := by
  obtain ⟨-, rfl⟩ | ⟨-, c, u, -, hu, rfl⟩ := engineMove_next h
  · exact hs
  · obtain ⟨i, hends⟩ := performWord_next hu
    obtain ⟨-, hblock⟩ := State.inv_iff.mp hs
    refine State.inv_iff.mpr ⟨?_, (hends.blockInv (hblock.of_sameBlock {})).of_sameBlock {}⟩
    have hpending : u.pending = none := hends.pending
    simp [State.PendingIffBusy, hpending]

theorem storeReg_sameBlock (r : RegId) (v : Word) (s : State) : SameBlock s (storeReg r v s) := by
  cases r with
  | h i => exact { marksH := fun _ => cellWritten_set_of i.val i.isLt v }
  | _ => exact {}

/-- A store into a register makes PENDING valid and BUSY 1 together, or touches neither (10_state.md R23, R24). -/
theorem storeReg_pendingIffBusy {s : State} (h : s.PendingIffBusy) (r : RegId) (v : Word) :
    (storeReg r v s).PendingIffBusy := by
  cases r with
  | cmd => rfl
  | _ => exact h

theorem hostStep_inv {op : HostOp} {s t : State} (h : hostStep op s = .next t) (hs : s.Inv) : t.Inv := by
  obtain ⟨hpending, hblock⟩ := State.inv_iff.mp hs
  rw [State.inv_iff]
  cases hostStep_next h with
  | noted ovr aerr p => exact ⟨hpending, hblock.of_sameBlock {}⟩
  | stored r v hr hb => exact ⟨storeReg_pendingIffBusy hpending r v, hblock.of_sameBlock (storeReg_sameBlock r v s)⟩
  | msgStored a b ha hb =>
    obtain ⟨hmsg, hbelow, hdig⟩ := hblock.buffers
    exact ⟨hpending,
      { hblock with buffers := ⟨Memory.wf_write hmsg a b, Memory.below_write hbelow ha b, hdig⟩ }⟩

/-- The state after reset meets the invariant (70_reset_and_hazards.md R290). -/
theorem resetWith_inv {p : Params} (port : HostPort) (h : p.legal = true) : (State.resetWith p port).Inv :=
  State.inv_iff.mpr ⟨rfl,
    { legal := h
      buffers := ⟨List.Pairwise.nil, nofun, List.Pairwise.nil, nofun⟩
      padded := rfl
      fit := by show 0 * _ ≤ _; omega
      hash := nofun
      flags := ⟨nofun, nofun⟩
      digest := nofun }⟩

theorem performEvent_inv {e : Event} {s t : State} (h : performEvent e s = .next t) (hs : s.Inv) : t.Inv := by
  cases e with
  | host op => exact hostStep_inv h hs
  | engine => exact engineMove_inv h hs
  | reset =>
    obtain ⟨hparams, -⟩ := hs
    cases h
    exact resetWith_inv s.host hparams

theorem popEvent_inv {s : State} (h : s.Inv) : (popEvent s).Inv := h

/-- Settles O14: the next event keeps the invariant, by `CommandEnds.blockInv` for each command that the engine runs. -/
theorem stepKeepsTheInvariant : Obligations.StepKeepsTheInvariant := by
  intro s t hs h
  rw [step_eq_performEvent] at h
  exact performEvent_inv h (popEvent_inv hs)

end Sys2Proof.Machine
end

section
/-! SUPPORT. Faults, unwritten marks and parameters along every transition (10_state.md R21, R24, R37, R38). -/

namespace Sys2Proof.Machine

theorem performEvent_faults {s : State} (hp : s.PendingIffBusy) (e : Event) :
    FaultsOnUnwritten s (performEvent e s) := by
  cases e with
  | host op => exact hostStep_faults op s
  | engine => exact engineMove_faults hp
  | reset => rintro f ⟨⟩

/-- Settles O16: commands and host reads fault on unwritten cells only, and the engine finds PENDING valid. -/
theorem invariantStatesStopOnlyOnUnwrittenCells : Obligations.InvariantStatesStopOnlyOnUnwrittenCells := by
  intro s f hs h
  obtain ⟨-, hpending, -⟩ := popEvent_inv hs
  rw [step_eq_performEvent] at h
  obtain ⟨c, rfl, hc⟩ := performEvent_faults hpending _ f h
  exact ⟨c, rfl, by rwa [isWritten_popEvent] at hc⟩

theorem performEvent_marksKept {e : Event} {s t : State} (h : performEvent e s = .next t) (he : e ≠ .reset) :
    MarksKept s t := by
  cases e with
  | host op => exact (hostStep_next h).marksKept
  | engine => exact engineMove_marksKept h
  | reset => exact absurd rfl he

/-- Settles O17: the engine's moves and the host's operations keep every written cell written. -/
theorem onlyResetSetsUnwrittenMarks : Obligations.OnlyResetSetsUnwrittenMarks := by
  intro s t c h hreset hc
  rw [step_eq_performEvent] at h
  have he : s.host.todo.head?.getD .engine ≠ .reset := by
    cases htodo : s.host.todo with
    | nil => simp
    | cons e rest => simpa [htodo] using hreset
  rw [← isWritten_popEvent] at hc
  exact marksKept_iff.mp (performEvent_marksKept h he) c hc

theorem performEvent_params {e : Event} {s t : State} (h : performEvent e s = .next t) : t.params = s.params := by
  cases e with
  | host op => exact (hostStep_next h).params
  | engine => exact engineMove_params h
  | reset => cases h; rfl

theorem configWord_eq (p : Params) : configWord p = if p.schedRot then 1#64 else 0#64 := by
  obtain ⟨cap, rot⟩ := p
  cases rot <;> rfl

/-- A read of a register that is exact at all times and holds no data cell gives its value, whatever BUSY is
(20_memory.md R62). -/
theorem regRead_of_exactAlways {i : BitVec 16} {r : RegId} (s : State) (hi : regOf i = some r)
    (hr : exactAlways r = true) (hcells : regReads r = []) :
    regRead i s = .next (reply (.word (regValue r s)) s) := by
  simp only [regRead, hi, hr, Bool.not_true, Bool.and_false, hcells]
  rfl

/-- Settles O18: no event changes the parameters, and MSGCAP and CONFIG are registers that read exactly always. -/
theorem parametersAreConstant : Obligations.ParametersAreConstant := by
  refine ⟨fun s t h => ?_, fun s => ⟨?_, ?_⟩⟩
  · rw [step_eq_performEvent] at h
    exact (performEvent_params h).trans rfl
  · exact regRead_of_exactAlways (i := 0x008#16) s (r := .msgcap) (by decide) rfl rfl
  · rw [← configWord_eq]
    exact regRead_of_exactAlways (i := 0x009#16) s (r := .config) (by decide) rfl rfl

end Sys2Proof.Machine
end

section
/-! SUPPORT. The upper halves of the cells that a command of a 32-bit variant reads (10_state.md R46). -/

namespace Sys2Proof.Machine

/-- The files `f` and `g` agree in the low 32 bits and in the mark of every cell. -/
def LowAgree {n : Nat} (f g : Vector DataCell n) : Prop :=
  ∀ j, low32 (cellValue f j) = low32 (cellValue g j) ∧ cellWritten f j = cellWritten g j

theorem lowWord_congr {v : Variant} (hv : v ≠ .C) {x y : Word} (h : low32 x = low32 y) :
    lowWord v x = lowWord v y := by
  cases v with
  | A => simp only [lowWord, h]
  | B => simp only [lowWord, h]
  | C => exact absurd rfl hv

theorem addWords_congr {v : Variant} (hv : v ≠ .C) {x x' y y' : Word} (hx : low32 x = low32 x')
    (hy : low32 y = low32 y') : addWords v x y = addWords v x' y' := by
  cases v with
  | A => simp only [addWords, hx, hy]
  | B => simp only [addWords, hx, hy]
  | C => exact absurd rfl hv

/-- The first cells of a file, once written, hold the words whatever the file held before. -/
theorem cellValue_writeFirst_congr {n : Nat} (f g : Vector DataCell n) (vs : List Word) {j : Nat}
    (hj : j < vs.length) (hn : j < n) : cellValue (writeFirst f vs) j = cellValue (writeFirst g vs) j := by
  rw [cellValue_writeFirst, cellValue_writeFirst, if_pos ⟨hj, hn⟩, if_pos ⟨hj, hn⟩]

/-- Two states that agree but for the upper halves of H, WS and W. -/
structure UpperHalvesDiffer (s u : State) : Prop where
  variant : u.variant = s.variant
  status : u.status = s.status
  h : LowAgree u.h s.h
  ws : LowAgree u.ws s.ws
  w : LowAgree u.w s.w

section Agreeing
variable {s u : State} (h : UpperHalvesDiffer s u)
include h

theorem UpperHalvesDiffer.valid (hvalid : s.status.valid = true) : u.status.valid = true := by rwa [h.status]

theorem UpperHalvesDiffer.hashWritten (hh : s.HashWritten) : u.HashWritten := by
  intro i hi
  rw [h.variant] at hi
  rw [(h.h i).2]
  exact hh i hi

theorem UpperHalvesDiffer.workWritten (hws : s.WorkWritten) : u.WorkWritten := by
  intro i hi
  rw [h.variant] at hi
  rw [(h.ws i).2]
  exact hws i hi

theorem UpperHalvesDiffer.wsinitWords_eq (hv : s.variant ≠ .C) : wsinitWords u = wsinitWords s := by
  unfold wsinitWords
  rw [h.variant]
  exact List.map_congr_left fun i _ => lowWord_congr hv (h.h i).1

theorem UpperHalvesDiffer.chainWords_eq (hv : s.variant ≠ .C) : chainWords u = chainWords s := by
  unfold chainWords
  rw [h.variant]
  exact List.map_congr_left fun i _ => addWords_congr hv (h.h i).1 (h.ws i).1

theorem UpperHalvesDiffer.roundWords_eq (hv : s.variant ≠ .C) (k : Nat) : roundWords k u = roundWords k s := by
  have hws (i : Nat) : low32 (cellValue u.ws i) = low32 (cellValue s.ws i) := (h.ws i).1
  unfold roundWords
  rw [h.variant]
  cases hvar : s.variant with
  | A => simp only [(h.w k).1, hws]
  | B => simp only [(h.w k).1, hws]
  | C => exact absurd hvar hv

/-! ### The three commands -/

theorem performWsinit_lowAgree (hv : s.variant ≠ .C) {t : State} (ht : performWsinit s = .next t) :
    ∃ t', performWsinit u = .next t' ∧ ∀ j < stateWords s.variant, cellValue t'.ws j = cellValue t.ws j := by
  obtain ⟨hnext, hw⟩ := needWritten_next ht
  cases hnext
  refine ⟨_, performWsinit_eq (h.hashWritten (hRange_written.mp hw)), fun j hj => ?_⟩
  rw [State.setWs_ws, State.setWs_ws, h.wsinitWords_eq hv]
  exact cellValue_writeFirst_congr _ _ _ (by rwa [wsinitWords_length]) (hj.trans_le (stateWords_le _))

theorem performRound_lowAgree (hv : s.variant ≠ .C) {k : Nat} {t : State} (ht : performRound k s = .next t) :
    ∃ t', performRound k u = .next t' ∧ ∀ j < stateWords s.variant, cellValue t'.ws j = cellValue t.ws j := by
  obtain ⟨hnext, hw⟩ := needWritten_next ht
  cases hnext
  obtain ⟨hwk, hws⟩ := roundReads_written.mp hw
  refine ⟨_, performRound_eq (h.workWritten hws) ((h.w k).2.trans hwk), fun j hj => ?_⟩
  rw [State.setWs_ws, State.setWs_ws, h.roundWords_eq hv]
  exact cellValue_writeFirst_congr _ _ _ (by rwa [roundWords_length]) (hj.trans_le (stateWords_le _))

theorem performChain_lowAgree (hv : s.variant ≠ .C) {t : State} (ht : performChain s = .next t) :
    ∃ t', performChain u = .next t' ∧ ∀ j < stateWords s.variant, cellValue t'.h j = cellValue t.h j := by
  obtain ⟨hnext, hw⟩ := needWritten_next ht
  cases hnext
  obtain ⟨hh, hws⟩ := chainReads_written.mp hw
  refine ⟨_, performChain_eq (h.hashWritten hh) (h.workWritten hws), fun j hj => ?_⟩
  rw [State.setH_h, State.setH_h, h.chainWords_eq hv]
  exact cellValue_writeFirst_congr _ _ _ (by rwa [chainWords_length]) (hj.trans_le (stateWords_le _))

end Agreeing

theorem exec_wsinit_of_valid {s : State} (h : s.status.valid = true) : exec .wsinit s = performWsinit s :=
  requireValid_of_valid _ h

theorem exec_chain_of_valid {s : State} (h : s.status.valid = true) : exec .chain s = performChain s :=
  requireValid_of_valid _ h

/-- ROUND with a legal index performs the round once VALID is set (43_compression.md R191). -/
theorem exec_round_of_valid {s : State} {k : BitVec 8} (h : s.status.valid = true) (hk : k.toNat < rounds s.variant) :
    exec (.round k) s = performRound k.toNat s :=
  (requireValid_of_valid _ h).trans (if_pos hk)

/-- Settles O44: the words that WSINIT, ROUND and CHAIN write are functions of the low halves. -/
theorem upperHalvesAreIgnored : Obligations.UpperHalvesAreIgnored := by
  intro s t i h ws w hv hvalid hi hh hws hw ht
  have hu : UpperHalvesDiffer s (((s.setH h).setWs ws).setW w) := ⟨rfl, rfl, hh, hws, hw⟩
  obtain rfl | rfl | ⟨k, rfl, hk⟩ := hi
  · rw [exec_wsinit_of_valid hvalid] at ht
    rw [exec_wsinit_of_valid (hu.valid hvalid)]
    obtain ⟨t', ht', hcells⟩ := performWsinit_lowAgree hu hv ht
    exact ⟨t', ht', fun j hj => ⟨fun _ => hcells j hj, nofun⟩⟩
  · rw [exec_chain_of_valid hvalid] at ht
    rw [exec_chain_of_valid (hu.valid hvalid)]
    obtain ⟨t', ht', hcells⟩ := performChain_lowAgree hu hv ht
    exact ⟨t', ht', fun j hj => ⟨fun hne => absurd rfl hne, fun _ => hcells j hj⟩⟩
  · rw [exec_round_of_valid hvalid hk] at ht
    rw [exec_round_of_valid (hu.valid hvalid) hk]
    obtain ⟨t', ht', hcells⟩ := performRound_lowAgree hu hv ht
    exact ⟨t', ht', fun j hj => ⟨fun _ => hcells j hj, nofun⟩⟩

end Sys2Proof.Machine
end

section
/-! SUPPORT. The fields of STATUS as the host reads them (10_state.md R25). -/

namespace Sys2Proof.Machine

/-- A bit of STATUS, with the width of each field written out in the type. -/
theorem statusWord_getLsbD (st : Status) (k : Nat) :
    (statusWord st).getLsbD k =
      (0#48 ++ errNumber st.err ++ 0#2 ++ flagBit st.aerr ++ flagBit st.ovr ++ flagBit st.valid ++ flagBit st.padded
        ++ flagBit st.done ++ flagBit st.busy).getLsbD k := rfl

theorem flagBit_getLsbD_zero (b : Bool) : (flagBit b).getLsbD 0 = b := by cases b <;> rfl

/-- STATUS above its six flags: the reserved bits 7:6, ERR, and the reserved bits 63:16. -/
theorem statusWord_getLsbD_above (st : Status) (k : Nat) :
    (statusWord st).getLsbD (6 + k) = (decide (2 ≤ k) && (errNumber st.err).getLsbD (k - 2)) := by
  have hk : 6 + k = k + 1 + 1 + 1 + 1 + 1 + 1 := by omega
  rw [statusWord_getLsbD, hk]
  simp only [BitVec.getLsbD_append]
  by_cases h : k < 2
  · simp [h, h.not_ge]
  · simpa [h, Nat.not_lt.mp h] using BitVec.lt_of_getLsbD

/-- Settles O55: `statusWord` is the fields put side by side, most significant first. -/
theorem statusLayout : Obligations.StatusLayout := by
  intro st
  refine ⟨?_, ?_, ?_, ?_, ?_, ?_, ?_, ?_, ?_⟩
  iterate 6
    · rw [statusWord_getLsbD]
      simp only [BitVec.getLsbD_append]
      exact flagBit_getLsbD_zero _
  · refine BitVec.eq_of_getLsbD_eq fun k hk => ?_
    rw [BitVec.getLsbD_extractLsb', statusWord_getLsbD_above]
    simp [hk]
  · refine BitVec.eq_of_getLsbD_eq fun k hk => ?_
    rw [BitVec.getLsbD_extractLsb', show 8 + k = 6 + (2 + k) by omega, statusWord_getLsbD_above]
    simp [hk]
  · refine BitVec.eq_of_getLsbD_eq fun k hk => ?_
    rw [BitVec.getLsbD_extractLsb', show 16 + k = 6 + (10 + k) by omega, statusWord_getLsbD_above]
    simp [BitVec.getLsbD_of_ge _ _ (show 8 ≤ 10 + k - 2 by omega)]

end Sys2Proof.Machine
end

section
/-! SUPPORT. The decoder on the words of the commands (30_encoding.md R91 to R97). -/

namespace Sys2Proof

theorem immField_wordI (op n : BitVec 8) : immField (wordI op n) = n := by
  show BitVec.extractLsb' 0 8 (op ++ 0#16 ++ n) = n
  exact BitVec.extractLsb'_append_eq_right

theorem varField_wordV (op : BitVec 8) (v : BitVec 2) : varField (wordV op v) = v := by
  show BitVec.extractLsb' 14 2 (op ++ 0#8 ++ v ++ 0#14) = v
  rw [BitVec.extractLsb'_append_eq_of_le (by decide)]
  exact BitVec.extractLsb'_append_eq_right

/-- The word of a command is a word of the command's own row, for every operand. -/
theorem Laws.RowOf.statement (i : Instr) : Laws.RowOf.Statement i := by
  cases i with
  | nop => exact nop
  | rotl32 n => exact rotl32 n
  | rotr32 n => exact rotr32 n
  | rotl64 n => exact rotl64 n
  | rotr64 n => exact rotr64 n
  | init v => exact init v
  | pad => exact pad
  | expand => exact expand
  | wsinit => exact wsinit
  | round t => exact round t
  | chain => exact chain
  | compress => exact compress
  | step => exact step
  | iterate => exact iterate
  | final => exact final
  | run v => exact run v
  | clrerr => exact clrerr
  | sreset => exact sreset

/-- The word of a command selects the command's own row, and its operand field holds the operand. -/
theorem tableRow_encode (i : Instr) : tableRow (encode i) = some (i.format, i) := by
  have hop : opField (encode i) = i.opcode := (Laws.RowOf.statement i).1
  unfold tableRow
  rw [hop]
  cases i with
  | rotl32 n | rotr32 n | rotl64 n | rotr64 n | round n =>
    simp [Instr.opcode, Instr.format, encode, immField_wordI]
  | init v | run v => simp [Instr.opcode, Instr.format, encode, varField_wordV]
  | _ => rfl

/-- The encoding of a command decodes to it, for every operand (30_encoding.md R97, R101). -/
theorem decode_encode (i : Instr) : decode (encode i) = .ok i := by
  obtain ⟨hop, hmask⟩ := Laws.RowOf.statement i
  rw [decode_of_row (tableRow_encode i), if_pos (by rw [hop, hmask])]

theorem tableWord_toNat (c : CmdWord) : tableWord 32 c.toNat = c := by
  rw [tableWord, Nat.mod_eq_of_lt c.isLt, BitVec.ofNat_toNat, BitVec.setWidth_eq]

end Sys2Proof

namespace Sys2Proof.Machine

/-- Where no error stands, performing the word of a command is the command's meaning (60_exceptions.md R262). -/
theorem performWord_encode {s : State} (i : Instr) (h : s.status.err = .none) :
    performWord (encode i) s = exec i s := by
  have hrej : rejected (encode i) s = false := by simp [rejected, h]
  simp [performWord, hrej, decode_encode]

/-- After a CMD write with the engine to move next, the step performs the word written (10_state.md R23, log 12). -/
theorem step_latchNext (c : CmdWord) (s : State) :
    step (latchNext c s) =
      andThen (performWord c (((s.setPending none).setLastCmd c).setStatus (s.status.withBusy true))) finishStep := by
  rfl

/-- Settles O56: the word decodes to its command, and no standing error rejects it. -/
theorem fetchWordIsTheNextCommand : Obligations.FetchWordIsTheNextCommand := by
  intro s i h
  rw [State.withFetchWord, tableWord_toNat, step_latchNext, performWord_encode i (by exact h)]
  rfl

end Sys2Proof.Machine
end

section
/-! SUPPORT. What every command leaves as it was (20_memory.md R73). -/

namespace Sys2Proof.Machine

/-- `t` has the PENDING, BUSY, ROT_IN, parameters and host port of `s`. By default a field counts as unchanged. -/
structure PortSideKept (s t : State) : Prop where
  pending : t.pending = s.pending := by rfl
  busy : t.status.busy = s.status.busy := by rfl
  rotIn : t.rotIn = s.rotIn := by rfl
  params : t.params = s.params := by rfl
  host : t.host = s.host := by rfl

theorem PortSideKept.trans {s t u : State} (h : PortSideKept s t) (k : PortSideKept t u) : PortSideKept s u :=
  ⟨k.pending.trans h.pending, k.busy.trans h.busy, k.rotIn.trans h.rotIn, k.params.trans h.params,
    k.host.trans h.host⟩

theorem DataStep.portSideKept {s t : State} (h : DataStep s t) : PortSideKept s t :=
  ⟨h.pending, congrArg Status.busy h.status, h.rotIn, h.params, h.host⟩

theorem padEffect_portSideKept (s : State) : PortSideKept s (padEffect s) := by
  constructor <;> simp [padEffect]

theorem CommandEnds.portSideKept {i : Instr} {s t : State} (h : CommandEnds i s t) : PortSideKept s t := by
  cases h with
  | raised e he => exact {}
  | data h hi hp => exact h.portSideKept
  | rotated r hi hp => exact {}
  | inited v hi hp => exact {}
  | padded hi hv hf => exact padEffect_portSideKept s
  | finalised hv hi hp => exact {}
  | cleared hi => exact {}
  | restarted hi => exact {}
  | ran w hi v hv hf u hu hr =>
    have hinit : PortSideKept s (initEffect v s) := {}
    exact (hinit.trans (padEffect_portSideKept _)).trans (hu.portSideKept.trans {})

/-- `t` has the OVR, AERR, LEN and LASTCMD of `s`: what host accesses set, and CLRERR and SRESET alone clear. By default
a field counts as unchanged. -/
structure HostSetKept (s t : State) : Prop where
  ovr : t.status.ovr = s.status.ovr := by rfl
  aerr : t.status.aerr = s.status.aerr := by rfl
  len : t.len = s.len := by rfl
  lastCmd : t.lastCmd = s.lastCmd := by rfl

theorem HostSetKept.trans {s t u : State} (h : HostSetKept s t) (k : HostSetKept t u) : HostSetKept s u :=
  ⟨k.ovr.trans h.ovr, k.aerr.trans h.aerr, k.len.trans h.len, k.lastCmd.trans h.lastCmd⟩

theorem DataStep.hostSetKept {s t : State} (h : DataStep s t) : HostSetKept s t :=
  ⟨congrArg Status.ovr h.status, congrArg Status.aerr h.status, h.len, h.lastCmd⟩

theorem padEffect_hostSetKept (s : State) : HostSetKept s (padEffect s) := by
  constructor <;> simp [padEffect]

theorem CommandEnds.hostSetKept {i : Instr} {s t : State} (h : CommandEnds i s t) (hclrerr : i ≠ .clrerr)
    (hsreset : i ≠ .sreset) : HostSetKept s t := by
  cases h with
  | raised e he => exact {}
  | data h hi hp => exact h.hostSetKept
  | rotated r hi hp => exact {}
  | inited v hi hp => exact {}
  | padded hi hv hf => exact padEffect_hostSetKept s
  | finalised hv hi hp => exact {}
  | cleared hi => exact absurd hi hclrerr
  | restarted hi => exact absurd hi hsreset
  | ran w hi v hv hf u hu hr =>
    have hinit : HostSetKept s (initEffect v s) := {}
    exact (hinit.trans (padEffect_hostSetKept _)).trans (hu.hostSetKept.trans {})

/-- Settles O19: every way in which a command ends keeps both groups of fields, by `exec_next`. -/
theorem commandsFrame : Obligations.CommandsFrame := by
  intro i s t h
  have hends := exec_next h
  obtain ⟨hpending, hbusy, hrotIn, hparams, hhost⟩ := hends.portSideKept
  refine ⟨hpending, hbusy, hrotIn, hparams, hhost, fun hclrerr hsreset => ?_⟩
  obtain ⟨hovr, haerr, hlen, hlastCmd⟩ := hends.hostSetKept hclrerr hsreset
  exact ⟨hovr, haerr, hlen, hlastCmd⟩

/-! ### The message buffer -/

/-- A command other than PAD and RUN writes no MSG cell. -/
theorem CommandEnds.msg {i : Instr} {s t : State} (h : CommandEnds i s t) (hpad : i ≠ .pad)
    (hrun : ∀ v, i ≠ .run v) : t.msg = s.msg := by
  cases h with
  | raised e he => rfl
  | data h hi hp => exact h.msg
  | rotated r hi hp => rfl
  | inited v hi hp => rfl
  | padded hi hv hf => exact absurd hi hpad
  | finalised hv hi hp => rfl
  | cleared hi => rfl
  | restarted hi => rfl
  | ran w hi v hv hf u hu hr => exact absurd hi (hrun w)

/-- PAD writes the cells from LEN up to the padded length only (41_padding.md R143). -/
theorem padEffect_msg_read (s : State) {a : Nat} (ha : a < s.len.toNat ∨ padLen s.variant s.len.toNat ≤ a) :
    (padEffect s).msg.read a = s.msg.read a :=
  Memory.read_writeBytes_outside s.msg (by rwa [paddingBytes_length])

/-- A command that writes MSG is PAD or RUN, which pad for the variant they end in (41_padding.md R143, 44_chaining.md
R216). -/
theorem CommandEnds.msg_read {i : Instr} {s t : State} (h : CommandEnds i s t) {a : Nat}
    (ha : a < s.len.toNat ∨ padLen t.variant s.len.toNat ≤ a) : t.msg.read a = s.msg.read a := by
  cases h with
  | raised e he => rfl
  | data h hi hp => rw [h.msg]
  | rotated r hi hp => rfl
  | inited v hi hp => rfl
  | padded hi hv hf => exact padEffect_msg_read s ha
  | finalised hv hi hp => rfl
  | cleared hi => rfl
  | restarted hi => rfl
  | ran w hi v hv hf u hu hr =>
    have hvar : (finalEffect u).variant = v := hu.variant
    have hmsg : (finalEffect u).msg = (padEffect (initEffect v s)).msg := hu.msg
    rw [hvar] at ha
    rw [hmsg]
    exact padEffect_msg_read (initEffect v s) ha

/-- Settles O20: only PAD's bytes reach MSG, and they lie from LEN up to the padded length. -/
theorem commandsKeepTheMessage : Obligations.CommandsKeepTheMessage :=
  fun _ _ _ h => ⟨(exec_next h).msg, fun _ => (exec_next h).msg_read⟩

end Sys2Proof.Machine
end

section
/-! SUPPORT. The REG map and the host's register accesses, one equation for each case (20_memory.md R61 to R63). -/

namespace Sys2Proof.Machine

/-! ### The map -/

theorem regOf_of_gap {i : BitVec 16} (hlo : 0x00A ≤ i.toNat) (hhi : i.toNat ≤ 0x00F) : regOf i = none := by
  simp (disch := omega) only [regOf, if_neg, if_pos]

theorem regOf_of_above {i : BitVec 16} (hlo : 0x070 ≤ i.toNat) : regOf i = none := by
  simp (disch := omega) only [regOf, if_neg, dif_neg]

/-- Settles O48: the mapped indices are finitely many and are looked up; the others fall between or above the ranges. -/
theorem regMapIsTheTable : Obligations.RegMapIsTheTable := by
  refine ⟨by decide, by decide, by decide, by decide, fun i hi => ?_⟩
  obtain ⟨hlo, hhi⟩ | hlo := hi
  · exact regOf_of_gap hlo hhi
  · exact regOf_of_above hlo

/-! ### Reads -/

theorem exactAlways_iff {r : RegId} : exactAlways r = true ↔ r ∈ [RegId.cmd, .status, .msgcap, .config] := by
  cases r <;> simp [exactAlways]

/-- The registers that read exactly at all times hold no data cell. -/
theorem regReads_of_exactAlways {r : RegId} (h : exactAlways r = true) : regReads r = [] := by
  cases r with
  | cmd | status | msgcap | config => rfl
  | _ => cases h

/-- A register is at most one data cell. -/
theorem regReads_of_mem {r : RegId} {c : CellId} (h : c ∈ regReads r) : regReads r = [c] := by
  cases r with
  | rotIn | rotOut | h _ | ws _ | w _ => rw [List.mem_singleton.mp h]; rfl
  | _ => cases h

theorem needWritten_singleton_of_unwritten {c : CellId} {s : State} (r : Result) (h : s.isWritten c = false) :
    needWritten [c] s r = .fault (.unwritten c) := by
  simp [needWritten, h]

section Read
variable {i : BitVec 16} {r : RegId} (s : State)

theorem regRead_of_unmapped (hi : regOf i = none) : regRead i s = .next (reply (.word 0#64) (setAerr s)) := by
  simp only [regRead, hi]

theorem regRead_of_busy (hi : regOf i = some r) (hr : exactAlways r = false) (hb : s.status.busy = true) :
    regRead i s = .next (drawn (reply (.word (Config.busyReadWord s.host.draws)) s)) := by
  simp [regRead, hi, hr, hb]

theorem regRead_of_idle (hi : regOf i = some r) (hb : s.status.busy = false) :
    regRead i s = needWritten (regReads r) s (.next (reply (.word (regValue r s)) s)) := by
  simp [regRead, hi, hb]

end Read

/-- Settles O49: the cases of `regRead`, and the mark check of the register's one cell while BUSY = 0. -/
theorem regReadMeaning : Obligations.RegReadMeaning := by
  refine fun s i => ⟨regRead_of_unmapped s, fun r hi hr => ?_, fun r hi hr hb => ?_, fun r hi hb hw => ?_,
    fun r c hi hb hc hw => ?_⟩
  · have hexact := exactAlways_iff.mpr hr
    exact regRead_of_exactAlways s hi hexact (regReads_of_exactAlways hexact)
  · exact ⟨_, regRead_of_busy s hi (eq_false_of_ne_true (mt exactAlways_iff.mp hr)) hb⟩
  · exact (regRead_of_idle s hi hb).trans (needWritten_of_written _ hw)
  · rw [← needWritten_singleton_of_unwritten _ hw, ← regReads_of_mem hc]
    exact regRead_of_idle s hi hb

/-! ### Writes -/

theorem readOnly_iff {r : RegId} :
    readOnly r = true ↔ r ∈ [RegId.status, .variant, .nblk, .rotOut, .msgcap, .config] := by
  cases r <;> simp [readOnly]

section Write
variable {i : BitVec 16} {r : RegId} (v : Word) (s : State)

theorem regWrite_of_unmapped (hi : regOf i = none) : regWrite i v s = setAerr s := by
  simp only [regWrite, hi]

theorem regWrite_of_readOnly (hi : regOf i = some r) (hr : readOnly r = true) : regWrite i v s = s := by
  simp [regWrite, hi, hr]

theorem regWrite_of_busy (hi : regOf i = some r) (hr : readOnly r = false) (hb : s.status.busy = true) :
    regWrite i v s = setOvr s := by
  simp [regWrite, hi, hr, hb]

theorem regWrite_of_idle (hi : regOf i = some r) (hr : readOnly r = false) (hb : s.status.busy = false) :
    regWrite i v s = storeReg r v s := by
  simp [regWrite, hi, hr, hb]

end Write

section Store
variable {r : RegId} (v : Word) (s : State)

/-- A later read of the register gives the 64 bits stored. -/
theorem regValue_storeReg_same (hcmd : r ≠ .cmd) (hr : readOnly r = false) : regValue r (storeReg r v s) = v := by
  cases r with
  | cmd => exact absurd rfl hcmd
  | len => rfl
  | blk => rfl
  | rotIn => rfl
  | h i => exact (cellValue_set s.h i i.isLt v i).trans (if_pos rfl)
  | ws i => exact (cellValue_set s.ws i i.isLt v i).trans (if_pos rfl)
  | w i => exact (cellValue_set s.w i i.isLt v i).trans (if_pos rfl)
  | _ => cases hr

theorem cellValue_set_ne {n : Nat} (f : Vector DataCell n) {j k : Fin n} (h : j ≠ k) :
    cellValue (f.set k.val (DataCell.ofWord v) k.isLt) j.val = cellValue f j.val := by
  rw [cellValue_set, if_neg (Fin.val_ne_of_ne h)]

/-- A store changes the value of no other register; the CMD write, which sets BUSY too, is no such store. -/
theorem regValue_storeReg_ne (hcmd : r ≠ .cmd) {q : RegId} (hq : q ≠ r) :
    regValue q (storeReg r v s) = regValue q s := by
  cases r with
  | cmd => exact absurd rfl hcmd
  | len =>
    cases q with
    | len => exact absurd rfl hq
    | _ => rfl
  | blk =>
    cases q with
    | blk => exact absurd rfl hq
    | _ => rfl
  | rotIn =>
    cases q with
    | rotIn => exact absurd rfl hq
    | _ => rfl
  | h k =>
    cases q with
    | h j => exact cellValue_set_ne v s.h (mt (congrArg RegId.h) hq)
    | _ => rfl
  | ws k =>
    cases q with
    | ws j => exact cellValue_set_ne v s.ws (mt (congrArg RegId.ws) hq)
    | _ => rfl
  | w k =>
    cases q with
    | w j => exact cellValue_set_ne v s.w (mt (congrArg RegId.w) hq)
    | _ => rfl
  | _ => rfl

/-- A store clears the unwritten mark of the register's cell (10_state.md R21). -/
theorem isWritten_storeReg_of_mem (hr : readOnly r = false) {c : CellId} (hc : c ∈ regReads r) :
    (storeReg r v s).isWritten c = true := by
  cases r with
  | rotIn => rw [List.mem_singleton.mp hc]; rfl
  | h k => rw [List.mem_singleton.mp hc]; exact (cellWritten_set s.h k k.isLt v k).trans (if_pos rfl)
  | ws k => rw [List.mem_singleton.mp hc]; exact (cellWritten_set s.ws k k.isLt v k).trans (if_pos rfl)
  | w k => rw [List.mem_singleton.mp hc]; exact (cellWritten_set s.w k k.isLt v k).trans (if_pos rfl)
  | rotOut => cases hr
  | _ => cases hc

theorem cellWritten_set_ne {n : Nat} (f : Vector DataCell n) {i : Nat} {k : Fin n} (h : i ≠ k.val) :
    cellWritten (f.set k.val (DataCell.ofWord v) k.isLt) i = cellWritten f i := by
  rw [cellWritten_set, if_neg h]

theorem isWritten_storeReg_of_not_mem {c : CellId} (hc : c ∉ regReads r) :
    (storeReg r v s).isWritten c = s.isWritten c := by
  cases r with
  | rotIn =>
    cases c with
    | rotIn => exact absurd (List.mem_singleton_self _) hc
    | _ => rfl
  | h k =>
    cases c with
    | h i => exact cellWritten_set_ne v s.h fun hik => hc (List.mem_singleton.mpr (congrArg CellId.h hik))
    | _ => rfl
  | ws k =>
    cases c with
    | ws i => exact cellWritten_set_ne v s.ws fun hik => hc (List.mem_singleton.mpr (congrArg CellId.ws hik))
    | _ => rfl
  | w k =>
    cases c with
    | w i => exact cellWritten_set_ne v s.w fun hik => hc (List.mem_singleton.mpr (congrArg CellId.w hik))
    | _ => rfl
  | _ => cases c <;> rfl

/-- A store to a register other than CMD changes no field but those of the writable registers. -/
theorem storeReg_frame (hcmd : r ≠ .cmd) {t : State} (ht : storeReg r v s = t) :
    t = ((((((s.setLen t.len).setBlk t.blk).setRotIn t.rotIn).setH t.h).setWs t.ws).setW t.w) := by
  subst ht
  cases r with
  | cmd => exact absurd rfl hcmd
  | _ => simp only [storeReg, State.setLen, State.setBlk, State.setRotIn, State.setH, State.setWs, State.setW]

end Store

/-- Settles O50: the cases of `regWrite`, and what `storeReg` does to values and marks. -/
theorem regWriteMeaning : Obligations.RegWriteMeaning := by
  refine fun s i v => ⟨fun hi => ?_, fun r hi hr => ?_, fun r hi hr hb => ?_, fun hi hb => ?_, fun r hi hr hb => ?_⟩
  · exact congrArg Host.Outcome.next (regWrite_of_unmapped v s hi)
  · exact congrArg Host.Outcome.next (regWrite_of_readOnly v s hi (readOnly_iff.mpr hr))
  · exact congrArg Host.Outcome.next (regWrite_of_busy v s hi (eq_false_of_ne_true (mt readOnly_iff.mp hr)) hb)
  · have hcmd : regOf i = some .cmd := by rw [hi]; decide
    exact congrArg Host.Outcome.next (regWrite_of_idle v s hcmd rfl hb)
  · obtain ⟨hcmd, hnot⟩ := not_or.mp (mt List.mem_cons.mpr hr)
    have hro : readOnly r = false := eq_false_of_ne_true (mt readOnly_iff.mp hnot)
    exact ⟨storeReg r v s, congrArg Host.Outcome.next (regWrite_of_idle v s hi hro hb),
      regValue_storeReg_same v s hcmd hro, fun _ => isWritten_storeReg_of_mem v s hro,
      fun _ => regValue_storeReg_ne v s hcmd, fun _ => isWritten_storeReg_of_not_mem v s, storeReg_frame v s hcmd rfl⟩

end Sys2Proof.Machine
end

section
/-! SUPPORT. The host's buffer accesses, one equation for each case (20_memory.md R64, R65), and the event that a step
performs. -/

namespace Sys2Proof.Machine

section Read
variable {bound a : Nat} {id : CellId} {m : Memory} (s : State)

theorem byteRead_out_of_range (ha : bound ≤ a) :
    byteRead bound a id m s = .next (reply (.byte 0#8) (setAerr s)) := if_pos ha

theorem byteRead_of_busy (ha : a < bound) (hb : s.status.busy = true) :
    byteRead bound a id m s = .next (drawn (reply (.byte (Config.busyReadByte s.host.draws)) s)) :=
  (if_neg ha.not_ge).trans (if_pos hb)

theorem byteRead_of_idle (ha : a < bound) (hb : s.status.busy = false) :
    byteRead bound a id m s = needWritten [id] s (.next (reply (.byte (m.byteAt a)) s)) :=
  (if_neg ha.not_ge).trans (if_neg (ne_true_of_eq_false hb))

variable {s}

/-- The read of a byte that its cell holds, where `id` names that cell. -/
theorem byteRead_of_some (hid : s.isWritten id = (m.read a).isSome) (ha : a < bound) (hb : s.status.busy = false)
    {v : Byte} (hv : m.read a = some v) : byteRead bound a id m s = .next (reply (.byte v) s) := by
  have hw : s.isWritten id = true := by rw [hid, hv, Option.isSome_some]
  rw [byteRead_of_idle s ha hb, needWritten_of_written _ (List.forall_mem_singleton.mpr hw), Memory.byteAt, hv,
    Option.getD_some]

theorem byteRead_of_none (hid : s.isWritten id = (m.read a).isSome) (ha : a < bound) (hb : s.status.busy = false)
    (hv : m.read a = none) : byteRead bound a id m s = .fault (.unwritten id) := by
  rw [byteRead_of_idle s ha hb, needWritten_singleton_of_unwritten _ (by rw [hid, hv, Option.isSome_none])]

end Read

section Write
variable {a : Nat} (b : Byte) (s : State)

theorem msgWrite_out_of_range (ha : s.params.msgCap ≤ a) : msgWrite a b s = setAerr s := if_pos ha

theorem msgWrite_of_busy (ha : a < s.params.msgCap) (hb : s.status.busy = true) : msgWrite a b s = setOvr s :=
  (if_neg ha.not_ge).trans (if_pos hb)

theorem msgWrite_of_idle (ha : a < s.params.msgCap) (hb : s.status.busy = false) :
    msgWrite a b s = s.setMsg (s.msg.write a b) :=
  (if_neg ha.not_ge).trans (if_neg (ne_true_of_eq_false hb))

end Write

/-- Settles O51: the cases of `msgWrite` and `byteRead`, and a buffer read after a write. -/
theorem msgAccessMeaning : Obligations.MsgAccessMeaning := by
  refine fun s a b => ⟨fun ha => ⟨?_, ?_⟩, fun ha hb => ⟨?_, ?_⟩, fun ha hb => ⟨?_, fun v hv => ?_, fun hv => ?_⟩⟩
  · exact congrArg Host.Outcome.next (msgWrite_out_of_range b s ha)
  · exact byteRead_out_of_range s ha
  · exact congrArg Host.Outcome.next (msgWrite_of_busy b s ha hb)
  · exact ⟨_, byteRead_of_busy s ha hb⟩
  · exact ⟨_, congrArg Host.Outcome.next (msgWrite_of_idle b s ha hb), Memory.read_write_same s.msg a b,
      fun _ => Memory.read_write_ne s.msg b⟩
  · exact byteRead_of_some rfl ha hb hv
  · exact byteRead_of_none rfl ha hb hv

/-- Settles O52: DIG is read as `byteRead` reads a buffer of 64 cells. -/
theorem digReadMeaning : Obligations.DigReadMeaning := by
  refine fun s a => ⟨byteRead_out_of_range s, fun ha hb => ?_, fun ha hb => ⟨fun v hv => ?_, fun hv => ?_⟩⟩
  · exact ⟨_, byteRead_of_busy s ha hb⟩
  · exact byteRead_of_some rfl ha hb hv
  · exact byteRead_of_none rfl ha hb hv

theorem step_of_listed {s : State} {e : Event} {rest : List Event} (h : s.host.todo = e :: rest) :
    step s = performEvent e (withTodo rest s) := by
  rw [step_eq_performEvent, popEvent, h, List.head?_cons, Option.getD_some, List.tail_cons]

/-- Settles O53: the three clauses are `step_of_listed` for any event, a host operation and the reset event. -/
theorem stepPerformsTheListedEvent : Obligations.StepPerformsTheListedEvent := by
  refine fun s e rest h => ⟨step_of_listed h, fun op he => ?_, fun he => ?_⟩
  · subst he
    exact step_of_listed h
  · subst he
    exact step_of_listed h

end Sys2Proof.Machine
end

section
/-! SUPPORT. Decoding and encoding are inverse to each other, and the decoder's answer for a reserved opcode
(30_encoding.md R91 to R101). -/

namespace Sys2Proof

/-! ### A word from its fields -/

theorem eq_wordN {c : CmdWord} (h : c.extractLsb' 0 24 = 0#24) : c = wordN (opField c) := by
  rw [wordN, ← h]
  exact (BitVec.extractLsb'_append_extractLsb' (w := 8) (len := 24)).symm

theorem eq_wordI {c : CmdWord} (h : c.extractLsb' 8 16 = 0#16) : c = wordI (opField c) (immField c) := by
  have hhigh : opField c ++ c.extractLsb' 8 16 = c.extractLsb' 8 24 :=
    BitVec.extractLsb'_append_extractLsb'_eq_extractLsb' rfl
  rw [wordI, ← h, hhigh]
  exact (BitVec.extractLsb'_append_extractLsb' (w := 24) (len := 8)).symm

theorem eq_wordV {c : CmdWord} (h : c.extractLsb' 16 8 = 0#8) (h' : c.extractLsb' 0 14 = 0#14) :
    c = wordV (opField c) (varField c) := by
  have hhigh : opField c ++ c.extractLsb' 16 8 = c.extractLsb' 16 16 :=
    BitVec.extractLsb'_append_extractLsb'_eq_extractLsb' rfl
  have hmid : c.extractLsb' 16 16 ++ varField c = c.extractLsb' 14 18 :=
    BitVec.extractLsb'_append_extractLsb'_eq_extractLsb' rfl
  rw [wordV, ← h, ← h', hhigh, hmid]
  exact (BitVec.extractLsb'_append_extractLsb' (w := 18) (len := 14)).symm

/-- The word of a format with the opcode and the operand of `c`, and zero in the reserved fields. -/
def Format.wordOf (f : Format) (c : CmdWord) : CmdWord :=
  match f with
  | .n => wordN (opField c)
  | .i => wordI (opField c) (immField c)
  | .v => wordV (opField c) (varField c)

/-- The mask check leaves nothing of a word open but its opcode and its operand (30_encoding.md R97). -/
theorem eq_wordOf_of_maskCheck {f : Format} {c : CmdWord} (h : c &&& f.mask = matchWord (opField c)) :
    c = f.wordOf c := by
  cases f with
  | n => exact eq_wordN ((maskCheck_n c).mp h)
  | i => exact eq_wordI ((maskCheck_i c).mp h)
  | v =>
    obtain ⟨hrsv0, hrsv1⟩ := (maskCheck_v c).mp h
    exact eq_wordV hrsv0 hrsv1

/-- The command of a selected row is encoded with the opcode and the operand of the word that selects it. -/
theorem encode_of_row {c : CmdWord} {f : Format} {i : Instr} (h : tableRow c = some (f, i)) :
    encode i = f.wordOf c := by
  obtain ⟨hop, rfl⟩ := tableRow_some h
  unfold tableRow at h
  rw [hop] at h
  cases i with
  | rotl32 n | rotr32 n | rotl64 n | rotr64 n | round n =>
    cases h
    exact congrArg (wordI · (immField c)) hop.symm
  | init v | run v =>
    cases h
    exact congrArg (wordV · (varField c)) hop.symm
  | _ => exact congrArg wordN hop.symm

/-- Settles O1, by `decode_encode`. -/
theorem decodeOfEncodeIsTheCommand : Obligations.DecodeOfEncodeIsTheCommand := decode_encode

/-- Settles O2: a word that decodes passes its row's mask check, which with the row gives every bit of it. -/
theorem encodeOfDecodeIsTheWord : Obligations.EncodeOfDecodeIsTheWord := by
  intro c i h
  obtain ⟨f, hrow, hmask⟩ := decode_ok h
  exact (encode_of_row hrow).trans (eq_wordOf_of_maskCheck hmask).symm

/-- Settles O3: the eight words are the encodings of their commands, and the other two select a row whose mask check
they fail. -/
theorem specWordsDecode : Obligations.SpecWordsDecode :=
  ⟨decode_encode .nop, decode_encode (.rotl32 1#8), decode_encode (.rotr64 1#8), decode_encode (.init 2#2),
    decode_encode .pad, decode_encode (.round 80#8), decode_encode (.run 1#2), decode_encode .sreset,
    (decode_of_row (i := .pad) rfl).trans (if_neg (by decide)),
    (decode_of_row (i := .rotl32 1#8) rfl).trans (if_neg (by decide))⟩

/-- The opcodes that select a row (30_encoding.md R96). -/
theorem tableRow_eq_none {c : CmdWord} : tableRow c = none ↔
    (opField c).toNat ∉ [0x00, 0x01, 0x02, 0x03, 0x04, 0x10, 0x11, 0x12, 0x13, 0x14, 0x15, 0x16, 0x17, 0x18, 0x19,
      0x1A, 0x1E, 0x1F] := by
  unfold tableRow
  split <;> simp_all

/-- Settles O7: the decoder answers 'reserved opcode' where no row is selected. -/
theorem reservedOpcodesAreIllegal : Obligations.ReservedOpcodesAreIllegal :=
  fun _ => decode_reservedOpcode.trans tableRow_eq_none

end Sys2Proof
end

section
/-! SUPPORT. The engine step on a pending word, one equation for each case of the decoder, and that no transition is
refused (30_encoding.md R97 to R99, 60_exceptions.md R262). -/

namespace Sys2Proof.Machine

/-! ### The engine's move -/

theorem step_of_engineNext {s : State} (h : s.EngineNext) : step s = engineMove (popEvent s) := by
  have he : s.host.todo.head?.getD .engine = .engine := by
    obtain htodo | htodo := h
    · rw [htodo]; rfl
    · rw [htodo]; rfl
  rw [step_eq_performEvent, he]
  rfl

theorem engineMove_of_pending {s : State} {c : CmdWord} (hbusy : s.status.busy = true) (hc : s.pending = some c) :
    engineMove s = andThen (performWord c (s.setPending none)) finishStep := by
  simp only [engineMove, engineStep, hbusy, hc, if_true]

/-- A step that takes a pending word performs it and clears BUSY (30_encoding.md R97). -/
theorem step_of_pending {s : State} {c : CmdWord} (hnext : s.EngineNext) (hbusy : s.status.busy = true)
    (hc : s.pending = some c) :
    step s = andThen (performWord c ((popEvent s).setPending none)) finishStep :=
  (step_of_engineNext hnext).trans (engineMove_of_pending (s := popEvent s) hbusy hc)

/-! ### Performing a word -/

/-- Step 1 of 60_exceptions.md R262 passes: no error stands, or the opcode is that of CLRERR or SRESET. -/
theorem rejected_eq_false {c : CmdWord} {s : State}
    (h : s.status.err = .none ∨ opField c = 0x1E#8 ∨ opField c = 0x1F#8) : rejected c s = false := by
  obtain h | h | h := h <;> simp [rejected, exemptOpcode, h]

theorem performWord_of_ok {c : CmdWord} {i : Instr} {s : State} (hrej : rejected c s = false)
    (hc : decode c = .ok i) : performWord c s = exec i s := by
  simp [performWord, hrej, hc]

theorem performWord_of_error {c : CmdWord} {e : DecodeError} {s : State} (hrej : rejected c s = false)
    (hc : decode c = .error e) : performWord c s = raise .illegalCmd s := by
  simp [performWord, hrej, hc]

theorem opField_of_decode {c : CmdWord} {i : Instr} (h : decode c = .ok i) : opField c = i.opcode := by
  obtain ⟨f, hrow, -⟩ := decode_ok h
  exact (tableRow_some hrow).1

/-- Settles O4: the word is not rejected, since its opcode is the command's. -/
theorem stepRunsTheDecodedCommand : Obligations.StepRunsTheDecodedCommand := by
  intro s c i hnext hbusy hc hdec herr
  have hop := opField_of_decode hdec
  have hrej : rejected c ((popEvent s).setPending none) = false := by
    obtain herr | rfl | rfl := herr
    · exact rejected_eq_false (.inl herr)
    · exact rejected_eq_false (.inr (.inl hop))
    · exact rejected_eq_false (.inr (.inr hop))
  rw [step_of_pending hnext hbusy hc, performWord_of_ok hrej hdec]
  rfl

/-- Settles O5: the word is not rejected, and `raise` changes STATUS.ERR alone. -/
theorem stepOfIllegalWord : Obligations.StepOfIllegalWord := by
  intro s c e hnext hbusy hc hdec herr
  have hrej : rejected c ((popEvent s).setPending none) = false := rejected_eq_false herr
  rw [step_of_pending hnext hbusy hc, performWord_of_error hrej hdec]
  rfl

/-! ### Nothing is refused -/

theorem regRead_notRefused (i : BitVec 16) (s : State) : NotRefused (regRead i s) := by
  unfold regRead
  split
  · rintro q ⟨⟩
  · split
    · rintro q ⟨⟩
    · exact needWritten_notRefused

theorem byteRead_notRefused (bound a : Nat) (id : CellId) (m : Memory) (s : State) :
    NotRefused (byteRead bound a id m s) := by
  unfold byteRead
  split
  · rintro q ⟨⟩
  · split
    · rintro q ⟨⟩
    · exact needWritten_notRefused

theorem hostStep_notRefused (op : HostOp) (s : State) : NotRefused (hostStep op s) := by
  cases op with
  | regRead i => exact regRead_notRefused i s
  | regWrite i v => rintro q ⟨⟩
  | msgRead a => exact byteRead_notRefused _ a _ _ s
  | msgWrite a b => rintro q ⟨⟩
  | digRead a => exact byteRead_notRefused _ a _ _ s

theorem performWord_notRefused (c : CmdWord) (s : State) : NotRefused (performWord c s) := by
  unfold performWord
  split
  · rintro q ⟨⟩
  · split
    · exact exec_notRefused _ s
    · rintro q ⟨⟩

theorem engineMove_notRefused (s : State) : NotRefused (engineMove s) := by
  unfold engineMove
  split
  · unfold engineStep
    split
    · exact andThen_notRefused (performWord_notRefused _ _) (by rintro u q ⟨⟩)
    · rintro q ⟨⟩
  · rintro q ⟨⟩

theorem performEvent_notRefused (e : Event) (s : State) : NotRefused (performEvent e s) := by
  cases e with
  | host op => exact hostStep_notRefused op s
  | engine => exact engineMove_notRefused s
  | reset => rintro q ⟨⟩

/-- Settles O11: neither the host's operations nor the engine's move nor reset refuses. -/
theorem nothingIsRefused : Obligations.NothingIsRefused := by
  intro s r
  rw [step_eq_performEvent]
  exact performEvent_notRefused _ _ r

end Sys2Proof.Machine
end

section
/-! SUPPORT. The commands that BLOCK expands to, one after the other (30_encoding.md R103). -/

namespace Sys2Proof.Machine

theorem exec_expand_of_valid {s : State} (h : s.status.valid = true) (hblk : s.blk.toNat < s.nblk.toNat) :
    exec .expand s = performExpand s :=
  (requireValid_of_valid _ h).trans (if_pos (decide_eq_true hblk))

theorem exec_step_of_valid {s : State} (h : s.status.valid = true) (hblk : s.blk.toNat < s.nblk.toNat) :
    exec .step s = performStep s :=
  (requireValid_of_valid _ h).trans (if_pos (decide_eq_true hblk))

/-! ### The parts that leave BLK -/

/-- A part that reads written cells and then has an effect leaves BLK if its effect does. -/
theorem needWritten_blk {cells : List CellId} {s u t : State} (h : needWritten cells s (.next u) = .next t)
    (hu : u.blk = s.blk) : t.blk = s.blk := by
  cases (needWritten_next h).1
  exact hu

theorem performRounds_blk {count first : Nat} {s t : State} (h : performRounds count first s = .next t) :
    t.blk = s.blk := by
  induction count generalizing first s with
  | zero => cases h; rfl
  | succ count ih =>
    obtain ⟨u, hu, ht⟩ := andThen_eq_next h
    exact (ih ht).trans (needWritten_blk hu rfl)

/-! ### The sequence -/

/-- The commands ROUND #first, ROUND #first+1, … one after the other perform the rounds, where VALID is set and the
variant has those rounds. -/
theorem foldl_exec_round {count first : Nat} {s t : State} (hvalid : s.status.valid = true)
    (hrounds : first + count ≤ rounds s.variant) (h : performRounds count first s = .next t) :
    ((List.range' first count).map fun k => exec (.round (BitVec.ofNat 8 k))).foldl andThen (.next s) = .next t := by
  induction count generalizing first s with
  | zero => exact h
  | succ count ih =>
    obtain ⟨u, hu, ht⟩ := andThen_eq_next h
    have hkept := performRound_dataStep hu
    have hle := rounds_le s.variant
    have hk : (BitVec.ofNat 8 first).toNat = first := Nat.mod_eq_of_lt (by omega)
    have hround : exec (.round (BitVec.ofNat 8 first)) s = .next u := by
      rw [exec_round_of_valid hvalid (by omega), hk, hu]
    rw [List.range'_succ, List.map_cons, List.foldl_cons, andThen_next, hround]
    exact ih (by rwa [hkept.status]) (by rw [hkept.variant]; omega) ht

/-- A STEP that answers a next state has expanded the block, set up the working state, run the rounds, folded the
working state into H and advanced BLK (44_chaining.md R213). -/
theorem performStep_next {s t : State} (h : performStep s = .next t) :
    ∃ u v w x, performExpand s = .next u ∧ performWsinit u = .next v ∧
      performRounds (rounds v.variant) 0 v = .next w ∧ performChain w = .next x ∧ t = advanceBlk x := by
  obtain ⟨x, hx, ht⟩ := andThen_eq_next h
  obtain ⟨u, hu, hx⟩ := andThen_eq_next hx
  obtain ⟨w, hw, hx⟩ := andThen_eq_next hx
  obtain ⟨v, hv, hw⟩ := andThen_eq_next hw
  cases ht
  exact ⟨u, v, w, x, hu, hv, hw, hx, rfl⟩

/-- Settles O43: each part of STEP is the command of the same name, and the last part of STEP is to advance BLK, which
the others leave. -/
theorem blockPseudoIsStepWithoutBlk : Obligations.BlockPseudoIsStepWithoutBlk := by
  intro s t hvalid hblk h
  rw [exec_step_of_valid hvalid hblk] at h
  obtain ⟨u, v, w, x, hu, hv, hw, hx, rfl⟩ := performStep_next h
  have hsu := performExpand_dataStep hu
  have hsv := hsu.trans (performWsinit_dataStep hv)
  have hsw := hsv.trans (performRounds_dataStep hw)
  have hblkx : x.blk = s.blk := by
    rw [needWritten_blk hx rfl, performRounds_blk hw, needWritten_blk hv rfl, needWritten_blk hu rfl]
  have hwsinit : exec .wsinit u = .next v := (exec_wsinit_of_valid (by rwa [hsu.status])).trans hv
  have hround := foldl_exec_round (by rwa [hsv.status]) (Nat.zero_add _).le hw
  have hchain : exec .chain w = .next x := (exec_chain_of_valid (by rwa [hsw.status])).trans hx
  rw [exec_expand_of_valid hvalid hblk, hu, andThen_next, hwsinit, List.range_eq_range', ← hsv.variant, hround,
    andThen_next, hchain, ← hblkx]
  rfl

end Sys2Proof.Machine
end

section
/-! SUPPORT. What the assembler can spell (30_encoding.md R101). -/

namespace Sys2Proof.Machine

theorem assemble_num_above {n : Nat} (m : String) (h : 255 < n) : assemble m (.num n) = none := if_neg h.not_ge

theorem assemble_num_toNat (m : String) (n : BitVec 8) : assemble m (.num n.toNat) = asmImmediate m n := by
  have hn : n.toNat ≤ 255 := Nat.le_of_lt_succ n.isLt
  rw [assemble, if_pos hn, BitVec.ofNat_toNat, BitVec.setWidth_eq]

/-- The variant letters are the codes other than 0b11 (30_encoding.md R95, R101). -/
theorem variantOfLetter_some {c : Char} {v : BitVec 2} (h : variantOfLetter c = some v) : v ≠ 3#2 := by
  unfold variantOfLetter at h
  split_ifs at h <;> cases h <;> decide

theorem variantOfLetter_none {c : Char} (h : c ∉ ['A', 'B', 'C']) : variantOfLetter c = none := by
  simp only [List.mem_cons, List.not_mem_nil, or_false, not_or] at h
  obtain ⟨hA, hB, hC⟩ := h
  rw [variantOfLetter, if_neg hA, if_neg hB, if_neg hC]

theorem exists_letter {v : BitVec 2} (h : v ≠ 3#2) : ∃ c, variantOfLetter c = some v := by
  have hcodes : ∀ v : BitVec 2, v ≠ 3#2 → v = 0#2 ∨ v = 1#2 ∨ v = 2#2 := by decide
  obtain rfl | rfl | rfl := hcodes v h
  · exact ⟨'A', rfl⟩
  · exact ⟨'B', rfl⟩
  · exact ⟨'C', rfl⟩

theorem asmNames_format {m : String} {i : Instr} (h : asmNames.lookup m = some i) : i.format = .n := by
  obtain ⟨l, l', hl, -⟩ := List.lookup_eq_some_iff.mp h
  have hall : ∀ p ∈ asmNames, p.2.format = .n := by decide
  exact hall (m, i) (by simp [hl])

theorem asmImmediate_format {m : String} {n : BitVec 8} {i : Instr} (h : asmImmediate m n = some i) :
    i.format = .i := by
  unfold asmImmediate at h
  split_ifs at h <;> cases h <;> rfl

theorem asmVariant_some {m : String} {v : BitVec 2} {i : Instr} (h : asmVariant m v = some i) :
    i = .init v ∨ i = .run v := by
  unfold asmVariant at h
  split_ifs at h <;> cases h
  · exact .inl rfl
  · exact .inr rfl

/-- A command with a spelling has no variant operand, or one that a letter names. -/
theorem assemble_some {m : String} {o : AsmOperand} {i : Instr} (h : assemble m o = some i) :
    i.format ≠ .v ∨ ∃ v, v ≠ 3#2 ∧ (i = .init v ∨ i = .run v) := by
  cases o with
  | none => exact .inl (by rw [asmNames_format h]; decide)
  | num n =>
    simp only [assemble] at h
    split_ifs at h
    exact .inl (by rw [asmImmediate_format h]; decide)
  | letter c =>
    obtain ⟨v, hv, hi⟩ := Option.bind_eq_some_iff.mp h
    exact .inr ⟨v, variantOfLetter_some hv, asmVariant_some hi⟩

theorem ne_var3_of_assemble {m : String} {o : AsmOperand} {i : Instr} (h : assemble m o = some i) :
    i ≠ .init 3#2 ∧ i ≠ .run 3#2 := by
  obtain hf | ⟨v, hv, rfl | rfl⟩ := assemble_some h
  · exact ⟨fun hi => hf (by rw [hi]; rfl), fun hi => hf (by rw [hi]; rfl)⟩
  · exact ⟨fun hi => hv (Instr.init.inj hi), nofun⟩
  · exact ⟨nofun, fun hi => hv (Instr.run.inj hi)⟩

theorem exists_spelling_imm {m : String} {n : BitVec 8} {i : Instr} (h : asmImmediate m n = some i) :
    ∃ m o, assemble m o = some i := ⟨m, .num n.toNat, (assemble_num_toNat m n).trans h⟩

theorem exists_spelling_var {m : String} {v : BitVec 2} {i : Instr} (h : asmVariant m v = some i) (hv : v ≠ 3#2) :
    ∃ m o, assemble m o = some i := by
  obtain ⟨c, hc⟩ := exists_letter hv
  exact ⟨m, .letter c, Option.bind_eq_some_iff.mpr ⟨v, hc, h⟩⟩

/-- Every command but INIT and RUN with VAR = 3 has the spelling of its row in 30_encoding.md R96. -/
theorem exists_spelling {i : Instr} (hinit : i ≠ .init 3#2) (hrun : i ≠ .run 3#2) :
    ∃ m o, assemble m o = some i := by
  cases i with
  | nop => exact ⟨"NOP", .none, rfl⟩
  | rotl32 n => exact exists_spelling_imm (m := "ROTL32") rfl
  | rotr32 n => exact exists_spelling_imm (m := "ROTR32") rfl
  | rotl64 n => exact exists_spelling_imm (m := "ROTL64") rfl
  | rotr64 n => exact exists_spelling_imm (m := "ROTR64") rfl
  | init v => exact exists_spelling_var (m := "INIT") rfl (fun hv => hinit (by rw [hv]))
  | pad => exact ⟨"PAD", .none, rfl⟩
  | expand => exact ⟨"EXPAND", .none, rfl⟩
  | wsinit => exact ⟨"WSINIT", .none, rfl⟩
  | round t => exact exists_spelling_imm (m := "ROUND") rfl
  | chain => exact ⟨"CHAIN", .none, rfl⟩
  | compress => exact ⟨"COMPRESS", .none, rfl⟩
  | step => exact ⟨"STEP", .none, rfl⟩
  | iterate => exact ⟨"ITERATE", .none, rfl⟩
  | final => exact ⟨"FINAL", .none, rfl⟩
  | run v => exact exists_spelling_var (m := "RUN") rfl (fun hv => hrun (by rw [hv]))
  | clrerr => exact ⟨"CLRERR", .none, rfl⟩
  | sreset => exact ⟨"SRESET", .none, rfl⟩

/-- Settles O57: the operands that no line has are refused, and VAR = 3 has no letter. -/
theorem assemblerRefusesWhatItCannotSpell : Obligations.AssemblerRefusesWhatItCannotSpell := by
  refine ⟨fun m n => assemble_num_above m, fun m c hc => ?_, fun i => ⟨?_, fun ⟨hinit, hrun⟩ => ?_⟩⟩
  · rw [assemble, variantOfLetter_none hc]
    rfl
  · rintro ⟨m, o, h⟩
    exact ne_var3_of_assemble h
  · exact exists_spelling hinit hrun

end Sys2Proof.Machine
end

section
/-! SUPPORT. The rotation functions of every width, by the bits of the rotated word (40_rotate.md R120 to R122). -/

namespace Sys2Proof.Machine

section Bits
variable {w n i : Nat} (x : BitVec w)

theorem rotl_eq_rotateLeft (hn : n < w) : rotl x n = x.rotateLeft n :=
  BitVec.rotateLeft_eq_rotateLeftAux_of_lt hn |>.symm

theorem rotr_eq_rotateRight (hn : n < w) : rotr x n = x.rotateRight n :=
  BitVec.rotateRight_eq_rotateRightAux_of_lt hn |>.symm

/-- R120: the n bits that leave at the top come in at the bottom, and every other bit moves up by n. -/
theorem getLsbD_rotl (hn : n < w) (hi : i < w) : (rotl x n).getLsbD i = x.getLsbD ((i + w - n) % w) := by
  rw [rotl_eq_rotateLeft x hn, BitVec.getLsbD_rotateLeft_of_le hn]
  by_cases hin : i < n
  · have hpos : (i + w - n) % w = w - n + i := by rw [Nat.mod_eq_of_lt (by omega)]; omega
    simp [hin, hpos]
  · have hpos : (i + w - n) % w = i - n := by
      rw [Nat.sub_add_comm (by omega), Nat.add_mod_right, Nat.mod_eq_of_lt (by omega)]
    simp [hin, hi, hpos]

/-- R121: the n bits that leave at the bottom come in at the top, and every other bit moves down by n. -/
theorem getLsbD_rotr (hn : n < w) (hi : i < w) : (rotr x n).getLsbD i = x.getLsbD ((i + n) % w) := by
  rw [rotr_eq_rotateRight x hn, BitVec.getLsbD_rotateRight, Nat.mod_eq_of_lt hn]
  by_cases hin : i < w - n
  · have hpos : (i + n) % w = n + i := by rw [Nat.mod_eq_of_lt (by omega)]; omega
    simp [hin, hpos]
  · have hpos : (i + n) % w = i - (w - n) := by
      rw [Nat.mod_eq_sub_mod (by omega), Nat.mod_eq_of_lt (by omega)]; omega
    simp [hin, hi, hpos]

theorem toNat_rotl : (rotl x n).toNat = ((x.toNat <<< n) ||| (x.toNat >>> (w - n))) % 2 ^ w := by
  have hshift : (x.toNat >>> (w - n)) % 2 ^ w = x.toNat >>> (w - n) := Nat.mod_eq_of_lt (x >>> (w - n)).isLt
  rw [Nat.or_mod_two_pow, hshift, rotl, BitVec.toNat_or, BitVec.toNat_shiftLeft, BitVec.toNat_ushiftRight]

theorem toNat_rotr : (rotr x n).toNat = ((x.toNat >>> n) ||| (x.toNat <<< (w - n))) % 2 ^ w := by
  have hshift : (x.toNat >>> n) % 2 ^ w = x.toNat >>> n := Nat.mod_eq_of_lt (x >>> n).isLt
  rw [Nat.or_mod_two_pow, hshift, rotr, BitVec.toNat_or, BitVec.toNat_shiftLeft, BitVec.toNat_ushiftRight]

/-- Settles O22: the closed forms are the shifts' own, and the bits move as `getLsbD_rotl` and `getLsbD_rotr` say. -/
theorem rotationsMoveBitsRoundTheWord : Obligations.RotationsMoveBitsRoundTheWord :=
  fun _ _ x _ hn => ⟨toNat_rotl x, toNat_rotr x, fun _ hi => ⟨getLsbD_rotl x hn hi, getLsbD_rotr x hn hi⟩⟩

/-! ### The laws of R122 -/

theorem rotr_eq_rotl_sub (hn : n ≤ w) : rotr x n = rotl x (w - n) := by
  rw [rotr, rotl, Nat.sub_sub_self hn, BitVec.or_comm]

theorem rotl_rotr (hn : n < w) : rotl (rotr x n) n = x := by
  apply BitVec.eq_of_getLsbD_eq
  intro i hi
  have hback : ((i + w - n) % w + n) % w = i := by
    rw [Nat.mod_add_mod, Nat.sub_add_cancel (by omega), Nat.add_mod_right, Nat.mod_eq_of_lt hi]
  rw [getLsbD_rotl _ hn hi, getLsbD_rotr x hn (Nat.mod_lt _ (by omega)), hback]

theorem rotl_zero : rotl 0#w n = 0#w := by
  rw [rotl, BitVec.zero_shiftLeft, BitVec.zero_ushiftRight, BitVec.or_self]

theorem rotl_allOnes (hn : n < w) : rotl (BitVec.allOnes w) n = BitVec.allOnes w := by
  apply BitVec.eq_of_getLsbD_eq
  intro i hi
  have hpos : (i + w - n) % w < w := Nat.mod_lt _ (by omega)
  rw [getLsbD_rotl _ hn hi, BitVec.getLsbD_allOnes, BitVec.getLsbD_allOnes, decide_eq_true hi, decide_eq_true hpos]

end Bits

/-- Settles O21: the laws hold at every width. -/
theorem rotationLaws : Obligations.RotationLaws :=
  ⟨fun x _ _ hn => ⟨rotr_eq_rotl_sub x hn.le, rotl_rotr x hn, rotl_zero, rotl_allOnes hn⟩,
    fun x _ _ hn => ⟨rotr_eq_rotl_sub x hn.le, rotl_rotr x hn, rotl_zero, rotl_allOnes hn⟩⟩

end Sys2Proof.Machine
end

section
/-! SUPPORT. The words of a row of format I, and the rotation commands, one equation for each case
(30_encoding.md R92, 40_rotate.md R123 to R126). -/

namespace Sys2Proof.Machine

/-! ### The words of a row -/

/-- Where no error stands, a word whose opcode selects a row is the row's command, or raises ILLEGAL_CMD by its
reserved fields (30_encoding.md R97, R99). -/
theorem performWord_of_row {c : CmdWord} {f : Format} {i : Instr} {s : State} (hrow : tableRow c = some (f, i))
    (herr : s.status.err = .none) :
    performWord c s = if c &&& f.mask = matchWord (opField c) then exec i s else raise .illegalCmd s := by
  have hrej : rejected c s = false := rejected_eq_false (.inl herr)
  have hdec := decode_of_row hrow
  split_ifs with hmask
  · exact performWord_of_ok hrej (hdec.trans (if_pos hmask))
  · exact performWord_of_error hrej (hdec.trans (if_neg hmask))

/-- The encoding of a command of format I follows from the row that its opcode selects. -/
theorem formatI_of_row {op : BitVec 8} {mk : BitVec 8 → Instr}
    (hrow : ∀ c, opField c = op → tableRow c = some (.i, mk (immField c))) : FormatI op (matchWord op) mk := by
  rintro c rfl
  exact ⟨decode_of_row (hrow c rfl), fun _ herr => performWord_of_row (hrow c rfl) herr⟩

/-! ### What the four rotation commands share -/

section Rotate
variable {max : Nat} {n : BitVec 8} {r : Word} {s : State}

theorem rotateInto_of_illegalAmount (hn : ¬(1 ≤ n.toNat ∧ n.toNat ≤ max)) :
    rotateInto (max + 1) n r s = raise .badShift s := by
  simp only [rotateInto, amountOk, immValue, Nat.lt_succ_iff, hn, decide_false, Bool.false_eq_true, if_false]

theorem rotateInto_of_legalAmount (hn : 1 ≤ n.toNat ∧ n.toNat ≤ max) :
    rotateInto (max + 1) n r s = needWritten [.rotIn] s (.next (s.setRotOut (DataCell.ofWord r))) := by
  simp only [rotateInto, amountOk, immValue, Nat.lt_succ_iff, hn, and_self, decide_true, if_true]

theorem rotateInto_of_unwritten (hn : 1 ≤ n.toNat ∧ n.toNat ≤ max) (hw : s.rotIn.written = false) :
    rotateInto (max + 1) n r s = .fault (.unwritten .rotIn) :=
  (rotateInto_of_legalAmount hn).trans (needWritten_singleton_of_unwritten _ hw)

theorem rotateInto_of_written (hn : 1 ≤ n.toNat ∧ n.toNat ≤ max) (hw : s.rotIn.written = true) :
    rotateInto (max + 1) n r s = .next (s.setRotOut (DataCell.ofWord r)) :=
  (rotateInto_of_legalAmount hn).trans (needWritten_of_written _ (List.forall_mem_singleton.mpr hw))

end Rotate

/-! ### The 32-bit views of a cell (10_state.md R46) -/

theorem getLsbD_low32 (x : Word) {i : Nat} (hi : i < 32) : (low32 x).getLsbD i = x.getLsbD i := by
  rw [low32, BitVec.getLsbD_setWidth, decide_eq_true hi, Bool.true_and]

theorem getLsbD_zext64 {k : Nat} (v : BitVec k) {i : Nat} (hi : i < 64) : (zext64 v).getLsbD i = v.getLsbD i := by
  rw [zext64, BitVec.getLsbD_setWidth, decide_eq_true hi, Bool.true_and]

theorem getLsbD_zext64_above {k : Nat} (v : BitVec k) {i : Nat} (hi : k ≤ i) : (zext64 v).getLsbD i = false := by
  rw [zext64, BitVec.getLsbD_setWidth, BitVec.getLsbD_of_ge v i hi, Bool.and_false]

theorem getLsbD_rotl_low32 (x : Word) {n i : Nat} (hn : n < 32) (hi : i < 32) :
    (zext64 (rotl (low32 x) n)).getLsbD i = x.getLsbD ((i + 32 - n) % 32) := by
  rw [getLsbD_zext64 _ (by omega), getLsbD_rotl _ hn hi, getLsbD_low32 x (Nat.mod_lt _ (by decide))]

theorem getLsbD_rotr_low32 (x : Word) {n i : Nat} (hn : n < 32) (hi : i < 32) :
    (zext64 (rotr (low32 x) n)).getLsbD i = x.getLsbD ((i + n) % 32) := by
  rw [getLsbD_zext64 _ (by omega), getLsbD_rotr _ hn hi, getLsbD_low32 x (Nat.mod_lt _ (by decide))]

/-! ### The commands -/

/-- Settles O23: the cases of `rotateInto`, with the bits of the zero-extended left rotation. -/
theorem rotl32Meaning : Obligations.Rotl32Meaning :=
  ⟨formatI_of_row fun _ hop => by rw [tableRow, hop]; rfl, fun _ s =>
    ⟨rotateInto_of_illegalAmount, rotateInto_of_unwritten, fun hn hw => ⟨_, rotateInto_of_written hn hw,
      fun _ hi => getLsbD_rotl_low32 s.rotIn.val (Nat.lt_succ_of_le hn.2) hi, fun _ => getLsbD_zext64_above _⟩⟩⟩

/-- Settles O24: the cases of `rotateInto`, with the bits of the zero-extended right rotation. -/
theorem rotr32Meaning : Obligations.Rotr32Meaning :=
  ⟨formatI_of_row fun _ hop => by rw [tableRow, hop]; rfl, fun _ s =>
    ⟨rotateInto_of_illegalAmount, rotateInto_of_unwritten, fun hn hw => ⟨_, rotateInto_of_written hn hw,
      fun _ hi => getLsbD_rotr_low32 s.rotIn.val (Nat.lt_succ_of_le hn.2) hi, fun _ => getLsbD_zext64_above _⟩⟩⟩

/-- Settles O25: the cases of `rotateInto`, with the bits of the left rotation. -/
theorem rotl64Meaning : Obligations.Rotl64Meaning :=
  ⟨formatI_of_row fun _ hop => by rw [tableRow, hop]; rfl, fun _ s =>
    ⟨rotateInto_of_illegalAmount, rotateInto_of_unwritten, fun hn hw => ⟨_, rotateInto_of_written hn hw,
      fun _ hi => getLsbD_rotl s.rotIn.val (Nat.lt_succ_of_le hn.2) hi⟩⟩⟩

/-- Settles O26: the cases of `rotateInto`, with the bits of the right rotation. -/
theorem rotr64Meaning : Obligations.Rotr64Meaning :=
  ⟨formatI_of_row fun _ hop => by rw [tableRow, hop]; rfl, fun _ s =>
    ⟨rotateInto_of_illegalAmount, rotateInto_of_unwritten, fun hn hw => ⟨_, rotateInto_of_written hn hw,
      fun _ hi => getLsbD_rotr s.rotIn.val (Nat.lt_succ_of_le hn.2) hi⟩⟩⟩

end Sys2Proof.Machine
end

section
/-! SUPPORT. The words of a row of format N (30_encoding.md R91). -/

namespace Sys2Proof.Machine

/-- The encoding of a command of format N follows from the row that its opcode selects: its mask keeps every bit. -/
theorem formatN_of_row {op : BitVec 8} {i : Instr} (hrow : ∀ c, opField c = op → tableRow c = some (.n, i)) :
    FormatN op (matchWord op) i := by
  rintro c rfl
  have hmask : c &&& Format.n.mask = c := BitVec.and_allOnes
  have hdec := decode_of_row (hrow c rfl)
  refine ⟨by rwa [hmask] at hdec, fun s herr => ?_⟩
  have hword := performWord_of_row (hrow c rfl) herr
  rwa [hmask] at hword

end Sys2Proof.Machine
end

section
/-! SUPPORT. The padding function, the bytes that PAD writes, and the padding family's statements
(41_padding.md). -/

namespace Sys2Proof.Machine

/-! ### Big-endian byte sequences in memory (00_scope.md R11) -/

theorem bytesBE_getElem? {n k : Nat} (v : Nat) (hk : k < n) :
    (bytesBE n v)[k]? = some (BitVec.ofNat 8 (v / 2 ^ (8 * (n - 1 - k)))) := by
  induction n generalizing k with
  | zero => exact absurd hk (Nat.not_lt_zero k)
  | succ n ih =>
    cases k with
    | zero => simp [bytesBE]
    | succ k =>
      have hpos : n + 1 - 1 - (k + 1) = n - 1 - k := by omega
      rw [bytesBE, List.getElem?_cons_succ, ih (by omega), hpos]

/-- `MemRead` of the bytes that stand at an address. -/
theorem Memory.readBE_of_read {m : Memory} {a : Nat} {bs : List Byte}
    (h : ∀ k < bs.length, m.read (a + k) = bs[k]?) : m.readBE a bs.length = ofBytesBE bs := by
  have hbytes : (List.range bs.length).map (fun k => m.byteAt (a + k)) = bs := by
    refine List.ext_getElem (by simp) fun k _ hk => ?_
    simp [Memory.byteAt, h k hk, hk]
  rw [Memory.readBE, hbytes]

/-! ### The padded length (41_padding.md R140, R144) -/

section Length
variable (v : Variant) (len : Nat)

theorem lengthBytes_lt_blockBytes : lengthBytes v < blockBytes v := by cases v <;> decide

/-- The lengths with z and with z' zero bytes are both multiples of B, so z - z' is one, and it is less than B. -/
theorem zeroCount_le {z : Nat} (h : (len + 1 + z + lengthBytes v) % blockBytes v = 0) : zeroCount v len ≤ z := by
  have hdvd : blockBytes v ∣ padLen v len - (len + 1 + z + lengthBytes v) :=
    Nat.dvd_sub (Nat.dvd_of_mod_eq_zero (padLen_mod_blockBytes v len)) (Nat.dvd_of_mod_eq_zero h)
  have hsub : padLen v len - (len + 1 + z + lengthBytes v) = zeroCount v len - z := by rw [padLen]; omega
  rw [hsub] at hdvd
  exact Nat.le_of_sub_eq_zero (Nat.eq_zero_of_dvd_of_lt hdvd ((Nat.sub_le _ _).trans_lt (zeroCount_lt v len)))

theorem lt_padLen : len + lengthBytes v < padLen v len := by rw [padLen]; omega

theorem padLen_le : padLen v len ≤ len + blockBytes v + lengthBytes v := by
  have hz := zeroCount_lt v len
  rw [padLen]
  omega

/-- LEN + L is less than padlen by at most B, and padlen is a multiple of B. -/
theorem padLen_div_blockBytes : padLen v len / blockBytes v = (len + lengthBytes v) / blockBytes v + 1 := by
  have hmul := Nat.div_mul_cancel (Nat.dvd_of_mod_eq_zero (padLen_mod_blockBytes v len))
  have hlt := lt_padLen v len
  have hle := padLen_le v len
  obtain ⟨q, hq⟩ := Nat.exists_eq_succ_of_ne_zero (padLen_div_blockBytes_pos v len).ne'
  rw [hq, Nat.succ_mul] at hmul
  have hdiv : (len + lengthBytes v) / blockBytes v = q :=
    Nat.div_eq_of_lt_le (by omega) (by rw [Nat.succ_mul]; omega)
  rw [hq, hdiv]

theorem padLen_div_blockBytes_eq_one :
    padLen v len / blockBytes v = 1 ↔ len ≤ blockBytes v - lengthBytes v - 1 := by
  have hlt := lengthBytes_lt_blockBytes v
  rw [padLen_div_blockBytes, Nat.add_eq_right, Nat.div_eq_zero_iff_lt (blockBytes_pos v)]
  omega

/-- Settles O28: `zeroCount_le` gives that no smaller number of zero bytes makes a multiple of B. -/
theorem paddedLengthIsTheLeastMultiple : Obligations.PaddedLengthIsTheLeastMultiple :=
  fun v len => ⟨rfl, zeroCount_lt v len, rfl, padLen_mod_blockBytes v len, fun _ => zeroCount_le v len⟩

end Length

/-! ### The padding bytes (41_padding.md R142) -/

section Bytes
variable (v : Variant) (len : Nat)

theorem paddingBytes_marker : (paddingBytes v len)[0]? = some 0x80#8 := rfl

theorem paddingBytes_zero {k : Nat} (hk : k < zeroCount v len) : (paddingBytes v len)[1 + k]? = some 0x00#8 := by
  rw [paddingBytes, Nat.add_comm, List.getElem?_cons_succ, List.getElem?_append_left (by simpa using hk),
    List.getElem?_replicate_of_lt hk]

theorem paddingBytes_lengthField (k : Nat) :
    (paddingBytes v len)[1 + zeroCount v len + k]? = (bytesBE (lengthBytes v) (bitLen len))[k]? := by
  have hpos : 1 + zeroCount v len + k = zeroCount v len + k + 1 := by omega
  rw [paddingBytes, hpos, List.getElem?_cons_succ, List.getElem?_append_right (by simp), List.length_replicate,
    Nat.add_sub_cancel_left]

end Bytes

/-! ### PAD, one equation for each case (41_padding.md R143) -/

theorem exec_pad_of_overflow {s : State} (hv : s.status.valid = true)
    (hp : s.params.msgCap < padLen s.variant s.len.toNat) : exec .pad s = raise .bufOverflow s :=
  (requireValid_of_valid _ hv).trans (if_neg (by simpa [fits] using hp))

theorem exec_pad_of_fits {s : State} (hv : s.status.valid = true)
    (hp : padLen s.variant s.len.toNat ≤ s.params.msgCap) : exec .pad s = .next (padEffect s) :=
  (requireValid_of_valid _ hv).trans (if_pos (decide_eq_true hp))

/-- LEN has 64 bits, so the number of blocks fits in NBLK whatever the parameters are. -/
theorem toNat_padEffect_nblk (s : State) :
    (padEffect s).nblk.toNat = padLen s.variant s.len.toNat / blockBytes s.variant := by
  have hlen := s.len.isLt
  have hle := padLen_le s.variant s.len.toNat
  have hfit : padLen s.variant s.len.toNat / blockBytes s.variant < 2 ^ 64 := by
    rw [Nat.div_lt_iff_lt_mul (blockBytes_pos _)]
    cases hvar : s.variant <;> simp only [hvar, blockBytes, lengthBytes] at hle ⊢ <;> omega
  show (BitVec.ofNat 64 _).toNat = _
  rw [BitVec.toNat_ofNat, Nat.mod_eq_of_lt hfit]

theorem padEffect_nblk_mul_blockBytes (s : State) :
    (padEffect s).nblk.toNat * blockBytes s.variant = padLen s.variant s.len.toNat := by
  rw [toNat_padEffect_nblk, Nat.div_mul_cancel (Nat.dvd_of_mod_eq_zero (padLen_mod_blockBytes _ _))]

/-- After PAD the padding bytes stand from LEN upward. -/
theorem padEffect_msg_read_padding (s : State) {i : Nat} {b : Byte}
    (h : (paddingBytes s.variant s.len.toNat)[i]? = some b) : (padEffect s).msg.read (s.len.toNat + i) = some b := by
  obtain ⟨hi, rfl⟩ := List.getElem?_eq_some_iff.mp h
  exact Memory.read_writeBytes_inside s.msg hi

theorem padEffect_msg_read_zero (s : State) {k : Nat} (hk : k < zeroCount s.variant s.len.toNat) :
    (padEffect s).msg.read (s.len.toNat + 1 + k) = some 0x00#8 := by
  rw [Nat.add_assoc]
  exact padEffect_msg_read_padding s (paddingBytes_zero s.variant s.len.toNat hk)

/-- The length field `BE_L(bitlen)`, byte by byte (41_padding.md R141, R142). -/
theorem padEffect_msg_read_lengthField (s : State) {k : Nat} (hk : k < lengthBytes s.variant) :
    (padEffect s).msg.read (s.len.toNat + 1 + zeroCount s.variant s.len.toNat + k) =
      (bytesBE (lengthBytes s.variant) (bitLen s.len.toNat))[k]? := by
  have hbyte := bytesBE_getElem? (bitLen s.len.toNat) hk
  rw [hbyte, Nat.add_assoc, Nat.add_assoc, ← Nat.add_assoc 1]
  exact padEffect_msg_read_padding s ((paddingBytes_lengthField _ _ k).trans hbyte)

/-- With legal parameters a message that fits has fewer than 2^61 bytes, so the length field is 8·LEN unreduced. -/
theorem padEffect_readBE_lengthField {s : State} (hlegal : s.params.legal = true)
    (hp : padLen s.variant s.len.toNat ≤ s.params.msgCap) :
    (padEffect s).msg.readBE (padLen s.variant s.len.toNat - lengthBytes s.variant) (lengthBytes s.variant)
      = 8 * s.len.toNat := by
  have hstart : padLen s.variant s.len.toNat - lengthBytes s.variant
      = s.len.toNat + 1 + zeroCount s.variant s.len.toNat := Nat.add_sub_cancel _ _
  have hfield := Memory.readBE_of_read (m := (padEffect s).msg) (bs := bytesBE (lengthBytes s.variant) _)
    fun k hk => padEffect_msg_read_lengthField s (by rwa [bytesBE_length] at hk)
  rw [bytesBE_length, ofBytesBE_bytesBE, bitLen] at hfield
  have hbits : 8 * s.len.toNat < 2 ^ 64 := by
    have hlt := lt_padLen s.variant s.len.toNat
    have hcap := msgCap_le_of_legal hlegal
    omega
  have hwidth : 2 ^ 64 ≤ 2 ^ (8 * lengthBytes s.variant) :=
    Nat.pow_le_pow_right (by decide) (by cases s.variant <;> decide)
  rw [hstart, hfield, Nat.mod_eq_of_lt hbits, Nat.mod_eq_of_lt (hbits.trans_le hwidth)]

/-- Settles O27: the cases of PAD, with the padding bytes read back from MSG one by one. -/
theorem padMeaning : Obligations.PadMeaning := by
  refine ⟨formatN_of_row fun _ hop => by rw [tableRow, hop]; rfl, fun s =>
    ⟨requireValid_of_invalid _, exec_pad_of_overflow, fun hv hp => ?_⟩⟩
  have hfield (k) (hk : k < lengthBytes s.variant) :=
    (padEffect_msg_read_lengthField s hk).trans (bytesBE_getElem? _ hk)
  exact ⟨padEffect s, exec_pad_of_fits hv hp, rfl, toNat_padEffect_nblk s,
    padEffect_msg_read_padding s (paddingBytes_marker _ _), fun _ => padEffect_msg_read_zero s, hfield,
    fun _ => padEffect_msg_read s⟩

/-- Settles O29: NBLK·B is padlen, whose bounds give the number of blocks, and the length field ends the last one. -/
theorem invariantsAfterPad : Obligations.InvariantsAfterPad := by
  intro s t hlegal hv hp ht
  rw [exec_pad_of_fits hv hp] at ht
  cases ht
  rw [padEffect_nblk_mul_blockBytes, toNat_padEffect_nblk]
  exact ⟨padLen_mod_blockBytes _ _, rfl, padLen_div_blockBytes _ _, padLen_div_blockBytes_eq_one _ _,
    (Nat.le_add_right _ _).trans_lt (lt_padLen _ _), padLen_le _ _, padEffect_readBE_lengthField hlegal hp⟩

end Sys2Proof.Machine
end

section
/-! SUPPORT. The word functions by their bits and bands (42_schedule.md R162, R164, 43_compression.md R181, R185,
R187). -/

namespace Sys2Proof.Machine

section Bits
variable {w i : Nat} (x y z : BitVec w)

theorem getLsbD_ch (hi : i < w) :
    (ch x y z).getLsbD i = if x.getLsbD i then y.getLsbD i else z.getLsbD i := by
  rw [ch, BitVec.getLsbD_xor, BitVec.getLsbD_and, BitVec.getLsbD_and, BitVec.getLsbD_not, decide_eq_true hi]
  cases x.getLsbD i <;> simp

theorem getLsbD_maj : (maj x y z).getLsbD i =
    decide (2 ≤ (x.getLsbD i).toNat + (y.getLsbD i).toNat + (z.getLsbD i).toNat) := by
  rw [maj, BitVec.getLsbD_xor, BitVec.getLsbD_xor, BitVec.getLsbD_and, BitVec.getLsbD_and, BitVec.getLsbD_and]
  generalize x.getLsbD i = a, y.getLsbD i = b, z.getLsbD i = c
  revert a b c
  decide

end Bits

/-- Parity is the mixing function of the second and of the fourth band. -/
theorem mixA_eq_bands (t : Nat) (x y z : BitVec 32) : mixA t x y z =
    if t < 20 then ch x y z else if 40 ≤ t ∧ t < 60 then maj x y z else x ^^^ y ^^^ z := by
  refine if_congr Iff.rfl rfl ?_
  by_cases h : t < 40
  · rw [if_pos h, if_neg (by omega)]
    rfl
  · rw [if_neg h]
    exact if_congr (by omega) rfl rfl

/-- Settles O32: the σ and Σ functions are written as the rules write them; the others are `getLsbD_ch`, `getLsbD_maj`
and `mixA_eq_bands`. -/
theorem wordFunctionsAreTheRules : Obligations.WordFunctionsAreTheRules :=
  ⟨fun _ => ⟨rfl, rfl, rfl, rfl⟩, fun _ => ⟨rfl, rfl, rfl, rfl⟩,
    fun _ _ x y z hi => ⟨getLsbD_ch x y z hi, getLsbD_maj x y z⟩, mixA_eq_bands⟩

end Sys2Proof.Machine
end

section
/-! SUPPORT. The schedule as a sequence that grows by one entry of the recurrence at a time, and EXPAND, which writes it
to W (42_schedule.md R160 to R166). -/

namespace Sys2Proof.Machine

/-! ### The schedule of a block (42_schedule.md R161 to R165) -/

section Schedule
variable {w : Nat} {next : List (BitVec w) → BitVec w} {r i : Nat} {block : List (BitVec w)}

/-- The last entry that `extend` puts is the recurrence over the entries before it. -/
theorem extend_succ (count : Nat) (acc : List (BitVec w)) :
    extend next (count + 1) acc = next (extend next count acc) :: extend next count acc := by
  induction count generalizing acc with
  | zero => rfl
  | succ count ih => exact ih (next acc :: acc)

theorem schedule_succ (hr : 16 ≤ r) :
    schedule next (r + 1) block = schedule next r block ++ [next (schedule next r block).reverse] := by
  rw [schedule, schedule, Nat.sub_add_comm hr, extend_succ, List.reverse_cons, List.reverse_reverse]

/-- A longer schedule begins with the shorter one. -/
theorem schedule_eq_append {r' : Nat} (hr : 16 ≤ r) (h : r ≤ r') :
    ∃ later, schedule next r' block = schedule next r block ++ later := by
  induction r', h using Nat.le_induction with
  | base => exact ⟨[], (List.append_nil _).symm⟩
  | succ k hk ih =>
    obtain ⟨later, hlater⟩ := ih
    exact ⟨_, by rw [schedule_succ (hr.trans hk), hlater, List.append_assoc]⟩

/-- So an entry does not depend on how long the schedule is. -/
theorem schedule_getD_of_le {r' j : Nat} (hb : block.length = 16) (hr : 16 ≤ r) (hj : j < r) (h : r ≤ r') :
    (schedule next r' block).getD j 0#w = (schedule next r block).getD j 0#w := by
  obtain ⟨later, hlater⟩ := schedule_eq_append (next := next) (block := block) hr h
  rw [hlater, List.getD_append _ _ _ _ (by rwa [schedule_length next block hb hr])]

/-- W[0..15] are the words of the block. -/
theorem schedule_getD_block (hb : block.length = 16) (hr : 16 ≤ r) (hi : i < 16) :
    (schedule next r block).getD i 0#w = block.getD i 0#w := by
  rw [schedule_getD_of_le hb le_rfl hi hr]
  exact congrArg (·.getD i 0#w) block.reverse_reverse

/-- W[i] for 16 ≤ i is the recurrence over the entries before it, and `back` looks them up by their distance. -/
theorem schedule_getD_recurrence (hb : block.length = 16) (h16 : 16 ≤ i) (hi : i < r) :
    ∃ earlier, (schedule next r block).getD i 0#w = next earlier ∧
      ∀ k, 0 < k → k ≤ i → back earlier k = (schedule next r block).getD (i - k) 0#w := by
  have hlen := schedule_length next block hb h16
  refine ⟨(schedule next i block).reverse, ?_, fun k hpos hk => ?_⟩
  · rw [schedule_getD_of_le hb (Nat.le_succ_of_le h16) (Nat.lt_succ_self i) hi, schedule_succ h16,
      List.getD_append_right _ _ _ _ hlen.le, hlen, Nat.sub_self]
    rfl
  · rw [schedule_getD_of_le hb h16 (Nat.sub_lt_self hpos hk) hi.le, back, List.getD_reverse _ (by omega), hlen]
    congr 1
    omega

end Schedule

/-! ### The words of a block (42_schedule.md R160) -/

theorem ofBytesBE_lt (bs : List Byte) : ofBytesBE bs < 2 ^ (8 * bs.length) := by
  induction bs with
  | nil => exact Nat.one_pos
  | cons b bs ih =>
    calc b.toNat * 2 ^ (8 * bs.length) + ofBytesBE bs
        < (b.toNat + 1) * 2 ^ (8 * bs.length) := by rw [Nat.succ_mul b.toNat]; exact Nat.add_lt_add_left ih _
      _ ≤ 2 ^ 8 * 2 ^ (8 * bs.length) := Nat.mul_le_mul_right _ b.isLt
      _ = 2 ^ (8 * (bs.length + 1)) := by rw [← Nat.pow_add, Nat.mul_succ, Nat.add_comm]

theorem blockWord_lt (s : State) (j : Nat) : blockWord s j < 2 ^ wordBits s.variant := by
  have h := ofBytesBE_lt ((List.range (wordBytes s.variant)).map fun k =>
    s.msg.byteAt (blockStart s + j * wordBytes s.variant + k))
  rwa [List.length_map, List.length_range] at h

theorem blockWords_getD (w : Nat) (s : State) {j : Nat} (hj : j < 16) :
    (blockWords w s).getD j 0#w = BitVec.ofNat w (blockWord s j) := by
  simp [blockWords, hj]

@[simp] theorem low32_zext64 (x : BitVec 32) : low32 (zext64 x) = x := BitVec.setWidth_setWidth_of_le x (by decide)

theorem toNat_zext64_ofNat {n : Nat} (h : n < 2 ^ 32) : (zext64 (BitVec.ofNat 32 n)).toNat = n := by
  rw [zext64, BitVec.toNat_setWidth_of_le (by decide), BitVec.toNat_ofNat, Nat.mod_eq_of_lt h]

/-! ### The cells that EXPAND writes (42_schedule.md R166) -/

section Expand
variable {s : State} {i : Nat}

theorem cellValue_expandEffect (hi : i < rounds s.variant) :
    cellValue (expandEffect s).w i = (scheduleWords s).getD i 0#64 := by
  have hle := rounds_le s.variant
  rw [expandEffect, State.setW_w, cellValue_writeFirst, scheduleWords_length, if_pos ⟨hi, by omega⟩]

/-- Variant A: the schedule's 32-bit words, zero-extended. -/
theorem cellValue_expandEffect_A (hv : s.variant = .A) (hi : i < 80) : cellValue (expandEffect s).w i =
    zext64 ((schedule (nextA s.params.schedRot) 80 (blockWords 32 s)).getD i 0#32) := by
  rw [cellValue_expandEffect (by rwa [hv]), scheduleWords, hv]
  exact List.getD_map _ 0#32 zext64

/-- Variant B: the schedule's 32-bit words, zero-extended. -/
theorem cellValue_expandEffect_B (hv : s.variant = .B) (hi : i < 64) : cellValue (expandEffect s).w i =
    zext64 ((schedule nextB 64 (blockWords 32 s)).getD i 0#32) := by
  rw [cellValue_expandEffect (by rwa [hv]), scheduleWords, hv]
  exact List.getD_map _ 0#32 zext64

/-- Variant C: the schedule's 64-bit words. -/
theorem cellValue_expandEffect_C (hv : s.variant = .C) (hi : i < 80) : cellValue (expandEffect s).w i =
    (schedule nextC 80 (blockWords 64 s)).getD i 0#64 := by
  rw [cellValue_expandEffect (by rwa [hv]), scheduleWords, hv]
  rfl

/-- W[0..15] hold the big-endian words of the block. -/
theorem toNat_cellValue_expandEffect_block (hi : i < 16) :
    (cellValue (expandEffect s).w i).toNat = blockWord s i := by
  have hlt := blockWord_lt s i
  cases hv : s.variant with
  | A =>
    rw [hv] at hlt
    rw [cellValue_expandEffect_A hv (by omega), schedule_getD_block (blockWords_length 32 s) (by decide) hi,
      blockWords_getD 32 s hi, toNat_zext64_ofNat hlt]
  | B =>
    rw [hv] at hlt
    rw [cellValue_expandEffect_B hv (by omega), schedule_getD_block (blockWords_length 32 s) (by decide) hi,
      blockWords_getD 32 s hi, toNat_zext64_ofNat hlt]
  | C =>
    rw [hv] at hlt
    rw [cellValue_expandEffect_C hv (by omega), schedule_getD_block (blockWords_length 64 s) (by decide) hi,
      blockWords_getD 64 s hi, BitVec.toNat_ofNat]
    exact Nat.mod_eq_of_lt hlt

/-- The recurrence of R161 over the cells of W. -/
theorem cellValue_expandEffect_recurrence_A (hv : s.variant = .A) (h16 : 16 ≤ i) (hi : i < 80) :
    cellValue (expandEffect s).w i =
      let x := low32 (cellValue (expandEffect s).w (i - 3)) ^^^ low32 (cellValue (expandEffect s).w (i - 8))
        ^^^ low32 (cellValue (expandEffect s).w (i - 14)) ^^^ low32 (cellValue (expandEffect s).w (i - 16))
      zext64 (if s.params.schedRot then rotl x 1 else x) := by
  obtain ⟨earlier, hnext, hback⟩ := schedule_getD_recurrence (next := nextA s.params.schedRot)
    (blockWords_length 32 s) h16 hi
  rw [cellValue_expandEffect_A hv hi, hnext]
  simp (disch := omega) only [nextA, hback, cellValue_expandEffect_A hv, low32_zext64]

/-- The recurrence of R163 over the cells of W. -/
theorem cellValue_expandEffect_recurrence_B (hv : s.variant = .B) (h16 : 16 ≤ i) (hi : i < 64) :
    cellValue (expandEffect s).w i =
      zext64 (low32 (cellValue (expandEffect s).w (i - 16)) +
        smallSigma0B (low32 (cellValue (expandEffect s).w (i - 15))) +
        low32 (cellValue (expandEffect s).w (i - 7)) +
        smallSigma1B (low32 (cellValue (expandEffect s).w (i - 2)))) := by
  obtain ⟨earlier, hnext, hback⟩ := schedule_getD_recurrence (next := nextB) (blockWords_length 32 s) h16 hi
  rw [cellValue_expandEffect_B hv hi, hnext]
  simp (disch := omega) only [nextB, hback, cellValue_expandEffect_B hv, low32_zext64]

/-- The recurrence of R165 over the cells of W. -/
theorem cellValue_expandEffect_recurrence_C (hv : s.variant = .C) (h16 : 16 ≤ i) (hi : i < 80) :
    cellValue (expandEffect s).w i =
      cellValue (expandEffect s).w (i - 16) + smallSigma0C (cellValue (expandEffect s).w (i - 15)) +
        cellValue (expandEffect s).w (i - 7) + smallSigma1C (cellValue (expandEffect s).w (i - 2)) := by
  obtain ⟨earlier, hnext, hback⟩ := schedule_getD_recurrence (next := nextC) (blockWords_length 64 s) h16 hi
  rw [cellValue_expandEffect_C hv hi, hnext]
  simp (disch := omega) only [nextC, hback, cellValue_expandEffect_C hv]

/-- W[R..79] keep value and mark. -/
theorem expandEffect_frame (hi : rounds s.variant ≤ i) :
    cellValue (expandEffect s).w i = cellValue s.w i ∧ cellWritten (expandEffect s).w i = cellWritten s.w i := by
  rw [expandEffect, State.setW_w, cellValue_writeFirst, cellWritten_writeFirst, scheduleWords_length]
  exact ⟨if_neg (by omega), if_neg (by omega)⟩

/-! ### EXPAND, one equation for each further case -/

theorem exec_expand_of_noBlock (hv : s.status.valid = true) (hblk : s.nblk.toNat ≤ s.blk.toNat) :
    exec .expand s = raise .noBlock s :=
  (requireValid_of_valid _ hv).trans (if_neg (by simpa [hasBlock] using hblk))

theorem performExpand_of_unwritten (h : ¬s.BlockWritten) :
    ∃ a, s.msg.read a = none ∧ performExpand s = .fault (.unwritten (.msg a)) := by
  rcases needWritten_cases (expandReads s) s (.next (expandEffect s)) with ⟨hw, _⟩ | ⟨c, hc, hmark, hfault⟩
  · exact absurd (expandReads_written.mp hw) h
  · obtain ⟨k, _, rfl⟩ := mem_cellRange.mp hc
    exact ⟨_, by simpa [State.isWritten] using hmark, hfault⟩

end Expand

/-- Settles O30: the cases of EXPAND, with the recurrence of each variant. -/
theorem expandMeaning : Obligations.ExpandMeaning := by
  refine ⟨formatN_of_row fun _ hop => by rw [tableRow, hop]; rfl, fun s =>
    ⟨requireValid_of_invalid _, exec_expand_of_noBlock, fun hv hblk hw => ?_, fun hv hblk hw => ?_⟩⟩
  · rw [exec_expand_of_valid hv hblk]
    exact performExpand_of_unwritten hw
  · refine ⟨expandEffect s, (exec_expand_of_valid hv hblk).trans (performExpand_eq hw), rfl,
      expand_scheduleWritten s, fun _ => toNat_cellValue_expandEffect_block, fun i h16 hi => ?_,
      fun _ => expandEffect_frame⟩
    cases hvar : s.variant with
    | A => exact cellValue_expandEffect_recurrence_A hvar h16 (by rwa [hvar] at hi)
    | B => exact cellValue_expandEffect_recurrence_B hvar h16 (by rwa [hvar] at hi)
    | C => exact cellValue_expandEffect_recurrence_C hvar h16 (by rwa [hvar] at hi)

end Sys2Proof.Machine
end

section
/-! SUPPORT. WSINIT and the cells that a list of words written to a register file leaves (43_compression.md R190). -/

namespace Sys2Proof.Machine

/-! ### A register file with its first cells written (10_state.md R21) -/

section Cells
variable {n i : Nat} (f : Vector DataCell n) {vs : List Word}

theorem cellValue_writeFirst_of_lt (hi : i < vs.length) (hn : i < n) :
    cellValue (writeFirst f vs) i = vs.getD i 0#64 :=
  (cellValue_writeFirst f vs i).trans (if_pos ⟨hi, hn⟩)

theorem cellWritten_writeFirst_of_lt (hi : i < vs.length) (hn : i < n) : cellWritten (writeFirst f vs) i = true :=
  (cellWritten_writeFirst f vs i).trans (if_pos ⟨hi, hn⟩)

/-- The cells beyond the words keep value and mark. -/
theorem writeFirst_frame (hi : vs.length ≤ i) :
    cellValue (writeFirst f vs) i = cellValue f i ∧ cellWritten (writeFirst f vs) i = cellWritten f i := by
  rw [cellValue_writeFirst, cellWritten_writeFirst]
  exact ⟨if_neg (by omega), if_neg (by omega)⟩

/-- The cells written, read back in order. -/
theorem map_cellValue_writeFirst (hn : vs.length ≤ n) :
    (List.range vs.length).map (cellValue (writeFirst f vs)) = vs := by
  refine List.ext_getElem (by simp) fun i hi _ => ?_
  rw [List.length_map, List.length_range] at hi
  rw [List.getElem_map, List.getElem_range, cellValue_writeFirst_of_lt f hi (hi.trans_le hn),
    List.getD_eq_getElem _ _ hi]

end Cells

/-- A mark check that fails names a cell of its list that is unwritten (60_exceptions.md R266). -/
theorem needWritten_of_not_written {cells : List CellId} {s : State} (r : Result)
    (h : ¬∀ c ∈ cells, s.isWritten c = true) :
    ∃ c ∈ cells, s.isWritten c = false ∧ needWritten cells s r = .fault (.unwritten c) :=
  (needWritten_cases cells s r).resolve_left fun ⟨hw, _⟩ => h hw

/-! ### WSINIT, one equation for each case -/

section Wsinit
variable {s : State} {i : Nat}

theorem performWsinit_of_unwritten (h : ¬s.HashWritten) :
    ∃ i < stateWords s.variant, cellWritten s.h i = false ∧ performWsinit s = .fault (.unwritten (.h i)) := by
  obtain ⟨c, hc, hmark, hfault⟩ := needWritten_of_not_written
    (.next (s.setWs (writeFirst s.ws (wsinitWords s)))) (mt hRange_written.mp h)
  obtain ⟨i, hi, rfl⟩ := mem_cellRange.mp hc
  rw [Nat.zero_add] at hmark hfault
  exact ⟨i, hi, hmark, hfault⟩

theorem wsinitWords_getD (hi : i < stateWords s.variant) :
    (wsinitWords s).getD i 0#64 = lowWord s.variant (cellValue s.h i) := by
  simp [wsinitWords, hi]

/-- WS[i] is H[i] without the bits above the word width. -/
theorem toNat_cellValue_wsinit (hi : i < stateWords s.variant) :
    (cellValue (writeFirst s.ws (wsinitWords s)) i).toNat = (cellValue s.h i).toNat % 2 ^ wordBits s.variant := by
  rw [cellValue_writeFirst_of_lt s.ws (by rwa [wsinitWords_length]) (hi.trans_le (stateWords_le _)),
    wsinitWords_getD hi, lowWord_toNat]

end Wsinit

/-- Settles O31: the cases of WSINIT, with the values of the cells it writes. -/
theorem wsinitMeaning : Obligations.WsinitMeaning := by
  refine ⟨formatN_of_row fun _ hop => by rw [tableRow, hop]; rfl, fun s =>
    ⟨requireValid_of_invalid _, fun hv hh => ?_, fun hv hh => ?_⟩⟩
  · rw [exec_wsinit_of_valid hv]
    exact performWsinit_of_unwritten hh
  · exact ⟨_, (exec_wsinit_of_valid hv).trans (performWsinit_eq hh), rfl,
      fun i hi => ⟨wsinit_workWritten s i hi, toNat_cellValue_wsinit hi⟩,
      fun i hi => writeFirst_frame s.ws (by rwa [wsinitWords_length])⟩

end Sys2Proof.Machine
end

section
/-! SUPPORT. ROUND, which writes one application of the variant's round function (43_compression.md R182, R186, R189,
R191). -/

namespace Sys2Proof.Machine

section Round
variable {s : State} {k : Nat}

theorem mem_roundReads {c : CellId} (hc : c ∈ roundReads k s) :
    c = .w k ∨ ∃ i < stateWords s.variant, c = .ws i := by
  obtain rfl | hc := List.mem_cons.mp hc
  · exact .inl rfl
  · obtain ⟨i, hi, rfl⟩ := mem_cellRange.mp hc
    exact .inr ⟨i, hi, by rw [Nat.zero_add]⟩

theorem performRound_of_unwritten (h : ¬(s.WorkWritten ∧ cellWritten s.w k = true)) :
    ∃ c, (c = .w k ∨ ∃ i < stateWords s.variant, c = .ws i) ∧ s.isWritten c = false ∧
      performRound k s = .fault (.unwritten c) := by
  obtain ⟨c, hc, hmark, hfault⟩ := needWritten_of_not_written
    (.next (s.setWs (writeFirst s.ws (roundWords k s)))) (mt (And.symm ∘ roundReads_written.mp) h)
  exact ⟨c, mem_roundReads hc, hmark, hfault⟩

/-- WS[0..<n] after ROUND #k are the words of the round function, in order. -/
theorem map_cellValue_round {n : Nat} (hn : stateWords s.variant = n) :
    (List.range n).map (cellValue (writeFirst s.ws (roundWords k s))) = roundWords k s := by
  have hlen : (roundWords k s).length = n := (roundWords_length k s).trans hn
  have hle : n ≤ 8 := hn ▸ stateWords_le s.variant
  have hcells := map_cellValue_writeFirst s.ws (vs := roundWords k s) (by rwa [hlen])
  rwa [hlen] at hcells

theorem exec_round_of_badRound {t : BitVec 8} (hv : s.status.valid = true) (ht : rounds s.variant ≤ t.toNat) :
    exec (.round t) s = raise .badRound s :=
  (requireValid_of_valid _ hv).trans (if_neg ht.not_gt)

end Round

/-- Settles O34: the cases of ROUND, with the round function of each variant written out. -/
theorem roundMeaning : Obligations.RoundMeaning := by
  refine ⟨formatI_of_row fun _ hop => by rw [tableRow, hop]; rfl, fun t s =>
    ⟨requireValid_of_invalid _, exec_round_of_badRound, fun hv ht hw => ?_, fun hv ht hws hw => ?_⟩⟩
  · rw [exec_round_of_valid hv ht]
    exact performRound_of_unwritten hw
  · refine ⟨_, (exec_round_of_valid hv ht).trans (performRound_eq hws hw), rfl,
      fun i hi => cellWritten_writeFirst_of _ (hws i hi),
      fun i hi => writeFirst_frame s.ws (by rwa [roundWords_length]), ?_⟩
    have hcells {n : Nat} := map_cellValue_round (s := s) (k := t.toNat) (n := n)
    cases hvar : s.variant with
    | A => exact (hcells (by rw [hvar]; rfl)).trans (by rw [roundWords, hvar]; rfl)
    | B => exact (hcells (by rw [hvar]; rfl)).trans (by rw [roundWords, hvar]; rfl)
    | C => exact (hcells (by rw [hvar]; rfl)).trans (by rw [roundWords, hvar]; rfl)

end Sys2Proof.Machine
end

section
/-! SUPPORT. COMPRESS as the sequence of the commands it performs (43_compression.md R192). -/

namespace Sys2Proof.Machine

/-! ### Sequences -/

/-- The second part of a sequence matters only in the states in which the first part can end. -/
theorem andThen_congr {r : Result} {k l : State → Result} (h : ∀ u, r = .next u → k u = l u) :
    andThen r k = andThen r l := by
  cases r with
  | next u => exact h u rfl
  | fault f => rfl
  | refused f => rfl

theorem andThen_pure (r : Result) : andThen r .next = r := by cases r <;> rfl

/-- Several parts one after the other are a sequence of the first result and the rest. -/
theorem foldl_andThen (ks : List (State → Result)) (r : Result) :
    ks.foldl andThen r = andThen r fun s => ks.foldl andThen (.next s) := by
  induction ks generalizing r with
  | nil => exact (andThen_pure r).symm
  | cons k ks ih =>
    calc ks.foldl andThen (andThen r k)
        = andThen r fun s => andThen (k s) fun u => ks.foldl andThen (.next u) := by rw [ih, andThen_assoc]
      _ = andThen r fun s => ks.foldl andThen (k s) := andThen_congr fun s _ => (ih (k s)).symm

/-! ### The rounds as commands -/

/-- The commands ROUND #first, ROUND #first+1, … one after the other are the rounds of COMPRESS, whatever their
outcome (`foldl_exec_round` is the case in which they complete): none of their checks fails. -/
theorem foldl_exec_round_eq {count first : Nat} {s : State} (hvalid : s.status.valid = true)
    (hrounds : first + count ≤ rounds s.variant) :
    ((List.range' first count).map fun k => exec (.round (BitVec.ofNat 8 k))).foldl andThen (.next s) =
      performRounds count first s := by
  induction count generalizing first s with
  | zero => rfl
  | succ count ih =>
    have hle := rounds_le s.variant
    have hk : (BitVec.ofNat 8 first).toNat = first := Nat.mod_eq_of_lt (by omega)
    have hround : exec (.round (BitVec.ofNat 8 first)) s = performRound first s := by
      rw [exec_round_of_valid hvalid (by omega), hk]
    rw [List.range'_succ, List.map_cons, List.foldl_cons, andThen_next, hround, foldl_andThen]
    refine andThen_congr fun u hu => ih ?_ ?_
    · rwa [(performRound_dataStep hu).status]
    · rw [(performRound_dataStep hu).variant]
      omega

/-- COMPRESS is its three commands in order, each with its own checks. -/
theorem performCompress_eq_commands {s : State} (hvalid : s.status.valid = true) :
    performCompress s =
      andThen (((List.range (rounds s.variant)).map fun t => exec (.round (BitVec.ofNat 8 t))).foldl
        andThen (exec .wsinit s)) (exec .chain) := by
  have hwork : ((List.range (rounds s.variant)).map fun t => exec (.round (BitVec.ofNat 8 t))).foldl
      andThen (exec .wsinit s) = andThen (performWsinit s) fun u => performRounds (rounds u.variant) 0 u := by
    rw [exec_wsinit_of_valid hvalid, foldl_andThen, List.range_eq_range']
    refine andThen_congr fun u hu => ?_
    have hkept := performWsinit_dataStep hu
    rw [← hkept.variant]
    exact foldl_exec_round_eq (by rwa [hkept.status]) (Nat.zero_add _).le
  rw [hwork]
  refine andThen_congr fun u hu => (exec_chain_of_valid ?_).symm
  rwa [(andThen_dataStep hu (fun _ => performWsinit_dataStep) fun _ _ => performRounds_dataStep).status]

/-! ### The result -/

section Result
variable {s : State} {i : Nat}

theorem chainWords_getD (hi : i < stateWords s.variant) :
    (chainWords s).getD i 0#64 = addWords s.variant (cellValue s.h i) (cellValue s.ws i) := by
  simp [chainWords, hi]

/-- H[0..<n] after CHAIN are written and hold the sums (44_chaining.md R212). -/
theorem chain_cells (hi : i < stateWords s.variant) :
    cellWritten (writeFirst s.h (chainWords s)) i = true ∧
      cellValue (writeFirst s.h (chainWords s)) i = addWords s.variant (cellValue s.h i) (cellValue s.ws i) := by
  have hlt : i < (chainWords s).length := by rwa [chainWords_length]
  have hlt8 : i < 8 := hi.trans_le (stateWords_le _)
  exact ⟨cellWritten_writeFirst_of_lt _ hlt hlt8,
    (cellValue_writeFirst_of_lt _ hlt hlt8).trans (chainWords_getD hi)⟩

end Result

theorem exec_compress_of_valid {s : State} (h : s.status.valid = true) : exec .compress s = performCompress s :=
  requireValid_of_valid _ h

/-- Settles O35: COMPRESS as a composition of commands, and its completion by `performCompress_completes`. -/
theorem compressMeaning : Obligations.CompressMeaning := by
  refine ⟨formatN_of_row fun _ hop => by rw [tableRow, hop]; rfl, fun s =>
    ⟨requireValid_of_invalid _, fun hv => (exec_compress_of_valid hv).trans (performCompress_eq_commands hv),
      fun hv hh hw => ?_⟩⟩
  obtain ⟨t, ht, hframe, hwork, hsum⟩ := performCompress_completes hh hw
  have hvar : t.variant = s.variant := by rw [hframe]; rfl
  refine ⟨t, (exec_compress_of_valid hv).trans ht, hframe, fun i hi => ⟨hwork i (by rwa [hvar]), ?_⟩⟩
  rw [hsum]
  exact chain_cells (s := s.setWs t.ws) hi

end Sys2Proof.Machine
end

section
/-! SUPPORT. The fixed tables against the roots of the primes (43_compression.md R180, R184, R188, 44_chaining.md
R210). -/

namespace Sys2Proof.Machine

/-! ### The first primes -/

/-- Trial division: below 21², a number is prime unless one of the numbers up to 20 divides it. -/
theorem prime_iff_trialDivision {p : Nat} (hp : p < 21 * 21) :
    p.Prime ↔ 2 ≤ p ∧ ∀ m < 21, 2 ≤ m → m * m ≤ p → ¬m ∣ p := by
  rw [Nat.prime_def_le_sqrt]
  refine and_congr_right fun _ => ⟨fun h m _ h2 hm => h m h2 (Nat.le_sqrt.mpr hm), fun h m h2 hm => ?_⟩
  exact h m (hm.trans_lt (Nat.sqrt_lt.mpr hp)) h2 (Nat.le_sqrt.mp hm)

theorem primeList_eq_filter :
    primeList = (List.range 410).filter fun p => 2 ≤ p ∧ ∀ m < 21, 2 ≤ m → m * m ≤ p → ¬m ∣ p := by
  decide

theorem primeList_length : primeList.length = 80 := rfl

theorem mem_primeList {p : Nat} : p ∈ primeList ↔ p < 410 ∧ p.Prime := by
  rw [primeList_eq_filter, List.mem_filter, List.mem_range, decide_eq_true_iff]
  exact and_congr_right fun hp => (prime_iff_trialDivision (hp.trans (by decide))).symm

theorem primeList_sorted : primeList.SortedLT := by
  rw [primeList_eq_filter]
  exact (List.pairwise_lt_range.filter _).sortedLT

/-- The list leaves out no prime: a prime below the i-th entry stands before it. -/
theorem primeList_complete {i : Nat} (hi : i < 80) : (primeList.getD i 0).Prime ∧
    ∀ p, p.Prime → p < primeList.getD i 0 → ∃ j < i, primeList.getD j 0 = p := by
  rw [← primeList_length] at hi
  rw [List.getD_eq_getElem _ _ hi]
  obtain ⟨hbound, hprime⟩ := mem_primeList.mp (List.getElem_mem hi)
  refine ⟨hprime, fun p hp hlt => ?_⟩
  obtain ⟨j, hj, rfl⟩ := List.mem_iff_getElem.mp (mem_primeList.mpr ⟨hlt.trans hbound, hp⟩)
  refine ⟨j, ?_, List.getD_eq_getElem _ _ hj⟩
  exact (primeList_sorted.strictMono_get.lt_iff_lt (a := ⟨j, hj⟩) (b := ⟨i, hi⟩)).mp hlt

/-! ### The tables: the power of each entry and of the next number enclose the prime -/

theorem constB_isFractionOfRoot : ∀ t < 64, IsFractionOfRoot 3 32 (primeList.getD t 0) (constB t).toNat := by
  unfold IsFractionOfRoot
  decide

theorem constC_isFractionOfRoot : ∀ t < 80, IsFractionOfRoot 3 64 (primeList.getD t 0) (constC t).toNat := by
  unfold IsFractionOfRoot
  decide

theorem initialHashB_isFractionOfRoot :
    ∀ i < 8, IsFractionOfRoot 2 32 (primeList.getD i 0) ((initialHash .B).getD i 0#64).toNat := by
  unfold IsFractionOfRoot
  decide

theorem initialHashC_isFractionOfRoot :
    ∀ i < 8, IsFractionOfRoot 2 64 (primeList.getD i 0) ((initialHash .C).getD i 0#64).toNat := by
  unfold IsFractionOfRoot
  decide

theorem constA_eq_band : ∀ t < 80,
    constA t = [0x5A827999#32, 0x6ED9EBA1#32, 0x8F1BBCDC#32, 0xCA62C1D6#32].getD (t / 20) 0#32 := by
  decide

/-- Settles O33: the list of primes by what it filters, and each table by the powers of its entries. -/
theorem constantsAreRootsOfPrimes : Obligations.ConstantsAreRootsOfPrimes :=
  ⟨primeList_length, fun _ => primeList_complete, constB_isFractionOfRoot, constC_isFractionOfRoot,
    initialHashB_isFractionOfRoot, initialHashC_isFractionOfRoot, constA_eq_band, rfl⟩

end Sys2Proof.Machine
end

section
/-! SUPPORT. The words of a row of format V, and INIT and CHAIN, which write the hash state (30_encoding.md R93,
44_chaining.md R211, R212). -/

namespace Sys2Proof.Machine

/-- The encoding of a command of format V follows from the row that its opcode selects. -/
theorem formatV_of_row {op : BitVec 8} {mk : BitVec 2 → Instr}
    (hrow : ∀ c, opField c = op → tableRow c = some (.v, mk (varField c))) : FormatV op (matchWord op) mk := by
  rintro c rfl
  exact ⟨decode_of_row (hrow c rfl), fun _ herr => performWord_of_row (hrow c rfl) herr⟩

/-! ### INIT -/

/-- A code of one of the three variants initialises in every state (44_chaining.md R211). -/
theorem exec_init_variantCode (x : Variant) (s : State) :
    exec (.init (variantCode x)) s = .next (initEffect x s) := by cases x <;> rfl

theorem initialHash_length (x : Variant) : (initialHash x).length = stateWords x := by cases x <;> rfl

theorem initWords_getD {x : Variant} {i : Nat} (hi : i < stateWords x) :
    (initWords x).getD i 0#64 = (initialHash x).getD i 0#64 :=
  List.getD_append _ _ _ _ (by rwa [initialHash_length])

theorem initWords_getD_above {x : Variant} {i : Nat} (hi : stateWords x ≤ i) : (initWords x).getD i 0#64 = 0#64 := by
  rw [initWords, List.getD_append_right _ _ _ _ (by rwa [initialHash_length]), List.getD_eq_getElem?_getD,
    List.getElem?_getD_replicate_default_eq]

theorem cellValue_initEffect (x : Variant) (s : State) {i : Nat} (hi : i < 8) :
    cellValue (initEffect x s).h i = (initWords x).getD i 0#64 :=
  cellValue_writeFirst_of_lt s.h (by rwa [initWords_length]) hi

/-- Settles O36: INIT writes all of H, with the initial hash value first. -/
theorem initMeaning : Obligations.InitMeaning :=
  ⟨formatV_of_row fun _ hop => by rw [tableRow, hop]; rfl, fun s => ⟨rfl, fun x =>
    ⟨initEffect x s, exec_init_variantCode x s, rfl, initEffect_hashWritten x s,
      fun _ hi => (cellValue_initEffect x s (hi.trans_le (stateWords_le x))).trans (initWords_getD hi),
      fun _ hi hn => (cellValue_initEffect x s hi).trans (initWords_getD_above hn)⟩⟩⟩

/-! ### CHAIN -/

theorem mem_chainReads {s : State} {c : CellId} (hc : c ∈ chainReads s) :
    ∃ i < stateWords s.variant, c = .h i ∨ c = .ws i := by
  obtain hc | hc := List.mem_append.mp hc
  · obtain ⟨i, hi, rfl⟩ := mem_cellRange.mp hc
    exact ⟨i, hi, .inl (by rw [Nat.zero_add])⟩
  · obtain ⟨i, hi, rfl⟩ := mem_cellRange.mp hc
    exact ⟨i, hi, .inr (by rw [Nat.zero_add])⟩

theorem performChain_of_unwritten {s : State} (h : ¬(s.HashWritten ∧ s.WorkWritten)) :
    ∃ i < stateWords s.variant, ∃ c, (c = .h i ∨ c = .ws i) ∧ s.isWritten c = false ∧
      performChain s = .fault (.unwritten c) := by
  obtain ⟨c, hc, hmark, hfault⟩ := needWritten_of_not_written
    (.next (s.setH (writeFirst s.h (chainWords s)))) (mt chainReads_written.mp h)
  obtain ⟨i, hi, hci⟩ := mem_chainReads hc
  exact ⟨i, hi, c, hci, hmark, hfault⟩

/-- Settles O37: the cases of CHAIN, with the sums of `addWords` as numbers. -/
theorem chainMeaning : Obligations.ChainMeaning := by
  refine ⟨formatN_of_row fun _ hop => by rw [tableRow, hop]; rfl, fun s =>
    ⟨requireValid_of_invalid _, fun hv hw => ?_, fun hv hh hws => ?_⟩⟩
  · rw [exec_chain_of_valid hv]
    exact performChain_of_unwritten hw
  · refine ⟨_, (exec_chain_of_valid hv).trans (performChain_eq hh hws), rfl, fun i hi => ?_,
      fun i hi => writeFirst_frame s.h (by rwa [chainWords_length])⟩
    obtain ⟨hmark, hsum⟩ := chain_cells hi
    exact ⟨hmark, (congrArg BitVec.toNat hsum).trans (addWords_toNat ..)⟩

end Sys2Proof.Machine
end

section
/-! SUPPORT. STEP and ITERATE, as the sequences of the commands they perform and on unwritten blocks (44_chaining.md
R213, R214). -/

namespace Sys2Proof.Machine

/-! ### STEP -/

theorem exec_step_of_noBlock {s : State} (hv : s.status.valid = true) (hblk : s.nblk.toNat ≤ s.blk.toNat) :
    exec .step s = raise .noBlock s :=
  (requireValid_of_valid _ hv).trans (if_neg (by simpa [hasBlock] using hblk))

/-- STEP is EXPAND, COMPRESS and BLK + 1, each command with its own checks. -/
theorem exec_step_eq_commands {s : State} (hv : s.status.valid = true) (hblk : s.blk.toNat < s.nblk.toNat) :
    exec .step s = andThen (andThen (exec .expand s) (exec .compress)) fun t => .next (advanceBlk t) := by
  rw [exec_step_of_valid hv hblk, exec_expand_of_valid hv hblk, performStep]
  refine congrArg (andThen · _) (andThen_congr fun u hu => (exec_compress_of_valid ?_).symm)
  rwa [(performExpand_dataStep hu).status]

/-- BLK + 1 does not wrap below NBLK. -/
theorem toNat_add_one_of_lt {b n : Word} (h : b.toNat < n.toNat) : (b + 1#64).toNat = b.toNat + 1 :=
  BitVec.toNat_add_of_lt ((Nat.succ_le_of_lt h).trans_lt n.isLt)

/-- Settles O38: STEP as a composition of commands, and its completion by `performStep_completes`. -/
theorem stepCommandMeaning : Obligations.StepCommandMeaning := by
  refine ⟨formatN_of_row fun _ hop => by rw [tableRow, hop]; rfl, fun s =>
    ⟨requireValid_of_invalid _, exec_step_of_noBlock, exec_step_eq_commands, fun hv hblk hb hh => ?_⟩⟩
  obtain ⟨t, ht, hd, hadv⟩ := performStep_completes hb hh
  exact ⟨t, (exec_step_of_valid hv hblk).trans ht, hd.frame, by rw [hadv, toNat_add_one_of_lt hblk]⟩

/-! ### ITERATE -/

theorem exec_iterate_of_notPadded {s : State} (hv : s.status.valid = true) (hp : s.status.padded = false) :
    exec .iterate s = raise .notPadded s :=
  (requireValid_of_valid _ hv).trans (if_neg (by rw [hp]; decide))

theorem exec_iterate_of_padded {s : State} (hv : s.status.valid = true) (hp : s.status.padded = true) :
    exec .iterate s = performIterate s :=
  (requireValid_of_valid _ hv).trans (if_pos hp)

theorem performIterate_of_done {s : State} (h : s.nblk.toNat ≤ s.blk.toNat) : performIterate s = .next s := by
  rw [performIterate, Nat.sub_eq_zero_of_le h]
  rfl

theorem performStep_blk {s t : State} (h : performStep s = .next t) : t.blk = s.blk + 1#64 := by
  obtain ⟨u, v, w, x, hu, hv, hw, hx, rfl⟩ := performStep_next h
  show x.blk + 1#64 = _
  rw [needWritten_blk hx rfl, performRounds_blk hw, needWritten_blk hv rfl, needWritten_blk hu rfl]

/-- The loop, unrolled once: STEP leaves NBLK and lowers the number of remaining blocks by 1 (log 23). -/
theorem performIterate_of_block {s : State} (h : s.blk.toNat < s.nblk.toNat) :
    performIterate s = andThen (performStep s) performIterate := by
  obtain ⟨count, hcount⟩ := Nat.exists_eq_add_of_lt h
  have hrest : s.nblk.toNat - s.blk.toNat = count + 1 := by omega
  rw [performIterate, hrest, performSteps]
  refine andThen_congr fun t ht => ?_
  have hcount' : t.nblk.toNat - t.blk.toNat = count := by
    rw [(performStep_dataStep ht).nblk, performStep_blk ht, toNat_add_one_of_lt h]
    omega
  rw [performIterate, hcount']

/-- ITERATE is STEP and then ITERATE again, each command with its own checks. -/
theorem exec_iterate_of_block {s : State} (hv : s.status.valid = true) (hp : s.status.padded = true)
    (h : s.blk.toNat < s.nblk.toNat) : exec .iterate s = andThen (exec .step s) (exec .iterate) := by
  rw [exec_iterate_of_padded hv hp, performIterate_of_block h, exec_step_of_valid hv h]
  refine andThen_congr fun t ht => (exec_iterate_of_padded ?_ ?_).symm
  · rwa [(performStep_dataStep ht).status]
  · rwa [(performStep_dataStep ht).status]

/-- Where the remaining blocks are written the loop ends with BLK = max(BLK, NBLK). -/
theorem performIterate_of_written {s : State} (hh : s.HashWritten)
    (hm : s.MsgWritten (s.blk.toNat * blockBytes s.variant) (s.nblk.toNat * blockBytes s.variant)) :
    ∃ t, performIterate s = .next t ∧ DataStep s t ∧ t.blk.toNat = max s.blk.toNat s.nblk.toNat := by
  have hnblk := s.nblk.isLt
  rcases Nat.le_total s.nblk.toNat s.blk.toNat with h | h
  · exact ⟨s, performIterate_of_done h, DataStep.refl s, (Nat.max_eq_left h).symm⟩
  · obtain ⟨t, ht, hd, hblk⟩ := performSteps_completes (count := s.nblk.toNat - s.blk.toNat) hh (by omega)
      (by rwa [Nat.add_sub_cancel' h])
    exact ⟨t, ht, hd, by omega⟩

/-- Settles O39: the loop of ITERATE unrolled once, and its completion by `performIterate_of_written`. -/
theorem iterateMeaning : Obligations.IterateMeaning := by
  refine ⟨formatN_of_row fun _ hop => by rw [tableRow, hop]; rfl, fun s =>
    ⟨requireValid_of_invalid _, exec_iterate_of_notPadded,
      fun hv hp hdone => (exec_iterate_of_padded hv hp).trans (performIterate_of_done hdone),
      exec_iterate_of_block, fun hv hp hh hm => ?_⟩⟩
  obtain ⟨t, ht, hd, hblk⟩ := performIterate_of_written hh hm
  exact ⟨t, (exec_iterate_of_padded hv hp).trans ht, hd.frame, hblk⟩

end Sys2Proof.Machine
end

section
/-! SUPPORT. FINAL and the digest bytes that it writes (44_chaining.md R215). -/

namespace Sys2Proof.Machine

/-- In the concatenation of sequences of length `l`, element k of sequence i stands at i·l + k. -/
theorem getElem?_flatMap_of_length {α β : Type} {f : α → List β} {l : Nat} (hf : ∀ a, (f a).length = l)
    {as : List α} {i k : Nat} (hi : i < as.length) (hk : k < l) :
    (as.flatMap f)[i * l + k]? = (f as[i])[k]? := by
  induction as generalizing i with
  | nil => exact absurd hi (Nat.not_lt_zero i)
  | cons a as ih =>
    rw [List.flatMap_cons]
    cases i with
    | zero => rw [Nat.zero_mul, Nat.zero_add, List.getElem?_append_left (by rwa [hf])]; rfl
    | succ i =>
      have hpos : (i + 1) * l + k = l + (i * l + k) := by rw [Nat.succ_mul]; omega
      rw [hpos, List.getElem?_append_right (by rw [hf]; omega), hf, Nat.add_sub_cancel_left,
        ih (Nat.lt_of_succ_lt_succ hi)]
      rfl

section Final
variable {s : State}

theorem exec_final_of_valid (h : s.status.valid = true) : exec .final s = performFinal s :=
  requireValid_of_valid _ h

theorem performFinal_of_unwritten (h : ¬s.HashWritten) :
    ∃ i < stateWords s.variant, cellWritten s.h i = false ∧ performFinal s = .fault (.unwritten (.h i)) := by
  obtain ⟨c, hc, hmark, hfault⟩ := needWritten_of_not_written (.next (finalEffect s)) (mt hRange_written.mp h)
  obtain ⟨i, hi, rfl⟩ := mem_cellRange.mp hc
  rw [Nat.zero_add] at hmark hfault
  exact ⟨i, hi, hmark, hfault⟩

/-- The digest `BE_wb(low_w(H[0])) … BE_wb(low_w(H[n-1]))`, without the zeros that FINAL writes behind it. -/
def digestPart (s : State) : List Byte :=
  (List.range (stateWords s.variant)).flatMap fun i =>
    bytesBE (wordBytes s.variant) (lowWord s.variant (cellValue s.h i)).toNat

theorem digestImage_eq_append (s : State) :
    digestImage s = digestPart s ++ List.replicate (64 - digestBytes s.variant) 0x00#8 := rfl

theorem digestPart_length (s : State) : (digestPart s).length = digestBytes s.variant := by
  simp [digestPart, digestBytes, List.length_flatMap, bytesBE_length]

/-- Byte k of word i of the digest. -/
theorem digestPart_getElem? {i k : Nat} (hi : i < stateWords s.variant) (hk : k < wordBytes s.variant) :
    (digestPart s)[i * wordBytes s.variant + k]? =
      some (BitVec.ofNat 8 ((cellValue s.h i).toNat % 2 ^ wordBits s.variant
        / 2 ^ (8 * (wordBytes s.variant - 1 - k)))) := by
  rw [digestPart, getElem?_flatMap_of_length (fun _ => bytesBE_length _ _) (by rwa [List.length_range]) hk,
    List.getElem_range, bytesBE_getElem? _ hk, lowWord_toNat]

/-! ### DIG after FINAL -/

theorem finalEffect_dig_read (s : State) {a : Nat} (ha : a < 64) :
    (finalEffect s).dig.read a = (digestImage s)[a]? := by
  show (s.dig.writeBytes 0 (digestImage s)).read a = _
  rw [Memory.read_writeBytes, digestImage_length, if_pos ⟨Nat.zero_le a, by omega⟩, Nat.sub_zero]

theorem digestBytes_le (v : Variant) : digestBytes v ≤ 64 := by cases v <;> decide

theorem finalEffect_dig_read_digest (s : State) {a : Nat} (ha : a < digestBytes s.variant) :
    (finalEffect s).dig.read a = (digestPart s)[a]? := by
  rw [finalEffect_dig_read s (ha.trans_le (digestBytes_le _)), digestImage_eq_append,
    List.getElem?_append_left (by rwa [digestPart_length])]

theorem finalEffect_dig_read_zero (s : State) {a : Nat} (ha : a < 64) (hd : digestBytes s.variant ≤ a) :
    (finalEffect s).dig.read a = some 0x00#8 := by
  rw [finalEffect_dig_read s ha, digestImage_eq_append, List.getElem?_append_right (by rwa [digestPart_length]),
    digestPart_length, List.getElem?_replicate_of_lt (by omega)]

theorem finalEffect_dig_read_above (s : State) {a : Nat} (ha : 64 ≤ a) :
    (finalEffect s).dig.read a = s.dig.read a :=
  Memory.read_writeBytes_outside s.dig (by rw [digestImage_length]; omega)

end Final

/-- A byte of a word of the digest lies inside the digest. -/
theorem mul_add_lt_digestBytes {v : Variant} {i k : Nat} (hi : i < stateWords v) (hk : k < wordBytes v) :
    i * wordBytes v + k < digestBytes v :=
  calc i * wordBytes v + k < (i + 1) * wordBytes v := by rw [Nat.succ_mul]; exact Nat.add_lt_add_left hk _
    _ ≤ stateWords v * wordBytes v := Nat.mul_le_mul_right _ hi

/-- Settles O40: the cases of FINAL, with the digest read back from DIG byte by byte. -/
theorem finalMeaning : Obligations.FinalMeaning := by
  refine ⟨formatN_of_row fun _ hop => by rw [tableRow, hop]; rfl, fun s =>
    ⟨requireValid_of_invalid _, fun hv hw => ?_, fun hv hh => ?_⟩⟩
  · rw [exec_final_of_valid hv]
    exact performFinal_of_unwritten hw
  · exact ⟨finalEffect s, (exec_final_of_valid hv).trans (performFinal_eq hh), rfl,
      fun i hi k hk => (finalEffect_dig_read_digest s (mul_add_lt_digestBytes hi hk)).trans (digestPart_getElem? hi hk),
      fun _ => finalEffect_dig_read_zero s, fun _ => finalEffect_dig_read_above s⟩

end Sys2Proof.Machine
end

section
/-! SUPPORT. RUN as the sequence of the commands it performs, and the unwritten bytes that it meets (44_chaining.md
R216). -/

namespace Sys2Proof.Machine

/-! ### Blocks with an unwritten byte -/

theorem performExpand_of_unwritten_block {s : State} (h : ¬s.BlockWritten) :
    ∃ a < blockStart s + blockBytes s.variant, s.msg.read a = none ∧
      performExpand s = .fault (.unwritten (.msg a)) := by
  obtain ⟨c, hc, hmark, hfault⟩ := needWritten_of_not_written (.next (expandEffect s)) (mt expandReads_written.mp h)
  obtain ⟨k, hk, rfl⟩ := mem_cellRange.mp hc
  exact ⟨_, Nat.add_lt_add_left hk _, by simpa [State.isWritten] using hmark, hfault⟩

/-- With H written, the loop faults on a byte of its blocks where one of them is unwritten. -/
theorem performSteps_of_unwritten {count : Nat} {s : State} (hh : s.HashWritten)
    (hfit : s.blk.toNat + count < 2 ^ 64)
    (hm : ¬s.MsgWritten (s.blk.toNat * blockBytes s.variant) ((s.blk.toNat + count) * blockBytes s.variant)) :
    ∃ a < (s.blk.toNat + count) * blockBytes s.variant, s.msg.read a = none ∧
      performSteps count s = .fault (.unwritten (.msg a)) := by
  induction count generalizing s with
  | zero => exact absurd (fun a hhi hlo => absurd hhi hlo.not_gt) hm
  | succ count ih =>
    have hend : blockStart s + blockBytes s.variant = (s.blk.toNat + 1) * blockBytes s.variant :=
      (Nat.succ_mul _ _).symm
    by_cases hb : s.BlockWritten
    · obtain ⟨u, hu, hd, hblk⟩ := performStep_completes hb hh
      have hblk' : u.blk.toNat = s.blk.toNat + 1 := by
        rw [hblk]
        exact BitVec.toNat_add_of_lt (show s.blk.toNat + 1 < 2 ^ 64 by omega)
      have hcount : s.blk.toNat + 1 + count = s.blk.toNat + (count + 1) := by omega
      have hrest := ih (s := u) (hd.hashWritten hh) (by omega)
      rw [hd.msg, hd.variant, hblk', hcount] at hrest
      obtain ⟨a, ha, hread, hfault⟩ := hrest fun hw => hm fun a hhi hlo => by
        by_cases ha : a < blockStart s + blockBytes s.variant
        · exact hb a ha hlo
        · have := hw a hhi (by omega)
          rwa [hd.msg] at this
      exact ⟨a, ha, hread, by rw [performSteps, hu, andThen_next, hfault]⟩
    · obtain ⟨a, ha, hread, hfault⟩ := performExpand_of_unwritten_block hb
      have hle : (s.blk.toNat + 1) * blockBytes s.variant ≤ (s.blk.toNat + (count + 1)) * blockBytes s.variant :=
        Nat.mul_le_mul_right _ (by omega)
      exact ⟨a, by omega, hread, by simp only [performSteps, performStep, hfault, andThen_fault]⟩

/-! ### RUN, one equation for each case -/

section Run
variable {s : State} {x : Variant}

theorem exec_run_variantCode (x : Variant) (s : State) :
    exec (.run (variantCode x)) s = if fits x s then performRun x s else raise .bufOverflow s := by
  cases x <;> rfl

theorem exec_run_of_overflow (h : s.params.msgCap < padLen x s.len.toNat) :
    exec (.run (variantCode x)) s = raise .bufOverflow s :=
  (exec_run_variantCode x s).trans (if_neg (by simpa [fits] using h))

theorem exec_run_of_fits (h : padLen x s.len.toNat ≤ s.params.msgCap) :
    exec (.run (variantCode x)) s = performRun x s :=
  (exec_run_variantCode x s).trans (if_pos (decide_eq_true h))

/-- What RUN x starts its loop from: INIT x and PAD have been performed. -/
def runStart (x : Variant) (s : State) : State := padEffect (initEffect x s)

theorem runStart_variant (x : Variant) (s : State) : (runStart x s).variant = x := rfl

theorem runStart_blk (x : Variant) (s : State) : (runStart x s).blk = 0#64 := rfl

theorem toNat_runStart_nblk (x : Variant) (s : State) :
    (runStart x s).nblk.toNat = padLen x s.len.toNat / blockBytes x :=
  toNat_padEffect_nblk (initEffect x s)

/-- RUN is its four commands in order, each with its own checks. -/
theorem exec_run_eq_commands (h : padLen x s.len.toNat ≤ s.params.msgCap) :
    exec (.run (variantCode x)) s =
      andThen (andThen (andThen (exec (.init (variantCode x)) s) (exec .pad)) (exec .iterate)) (exec .final) := by
  have hpad : exec .pad (initEffect x s) = .next (runStart x s) := exec_pad_of_fits rfl h
  have hiterate : exec .iterate (runStart x s) = performIterate (runStart x s) := exec_iterate_of_padded rfl rfl
  rw [exec_run_of_fits h, exec_init_variantCode, andThen_next, hpad, andThen_next, hiterate]
  refine andThen_congr fun u hu => (exec_final_of_valid ?_).symm
  rw [(performSteps_dataStep hu).status]
  rfl

theorem runStart_hashWritten (x : Variant) (s : State) : (runStart x s).HashWritten := fun i hi =>
  initEffect_hashWritten x s i (hi.trans_le (stateWords_le _))

/-- The blocks of the loop are the padded message. -/
theorem runStart_nblk_mul_blockBytes (x : Variant) (s : State) :
    (runStart x s).nblk.toNat * blockBytes x = padLen x s.len.toNat :=
  padEffect_nblk_mul_blockBytes (initEffect x s)

/-- PAD writes every byte from LEN up to the padded length, so that only a byte of the message can be unwritten. -/
theorem runStart_msg_isSome {a : Nat} (hlen : s.len.toNat ≤ a) (ha : a < padLen x s.len.toNat) :
    ((runStart x s).msg.read a).isSome = true := by
  have hend := paddingBytes_length x s.len.toNat
  have hlt : a - s.len.toNat < (paddingBytes x s.len.toNat).length := by omega
  have hread := padEffect_msg_read_padding (initEffect x s) (List.getElem?_eq_getElem hlt)
  rw [show (initEffect x s).len.toNat + (a - s.len.toNat) = a from Nat.add_sub_cancel' hlen] at hread
  exact Option.isSome_of_eq_some hread

theorem runStart_msg_read {a : Nat} (ha : a < s.len.toNat ∨ padLen x s.len.toNat ≤ a) :
    (runStart x s).msg.read a = s.msg.read a :=
  padEffect_msg_read (initEffect x s) ha

theorem runStart_msgWritten_iff :
    (runStart x s).MsgWritten 0 (padLen x s.len.toNat) ↔ s.MsgWritten 0 s.len.toNat := by
  have hlt := lt_padLen x s.len.toNat
  constructor
  · intro h a ha hlo
    rw [← runStart_msg_read (x := x) (.inl ha)]
    exact h a (by omega) hlo
  · intro h a ha hlo
    by_cases hlen : a < s.len.toNat
    · rw [runStart_msg_read (.inl hlen)]
      exact h a hlen hlo
    · exact runStart_msg_isSome (Nat.le_of_not_lt hlen) ha

/-- The loop of RUN runs over the padded message. -/
theorem performIterate_runStart (x : Variant) (s : State) :
    performIterate (runStart x s) = performSteps (runStart x s).nblk.toNat (runStart x s) := rfl

/-- An unwritten byte of the message is what RUN faults on. -/
theorem performRun_of_unwritten (h : ¬s.MsgWritten 0 s.len.toNat) :
    ∃ a < s.len.toNat, s.msg.read a = none ∧ performRun x s = .fault (.unwritten (.msg a)) := by
  have hsteps := performSteps_of_unwritten (count := (runStart x s).nblk.toNat) (runStart_hashWritten x s)
  rw [runStart_blk, BitVec.toNat_zero, Nat.zero_add, Nat.zero_mul, runStart_variant, runStart_nblk_mul_blockBytes,
    runStart_msgWritten_iff, ← performIterate_runStart] at hsteps
  obtain ⟨a, ha, hread, hfault⟩ := hsteps (runStart x s).nblk.isLt h
  have hlen : a < s.len.toNat := by
    by_contra hge
    have hsome := runStart_msg_isSome (Nat.le_of_not_lt hge) ha
    rw [hread] at hsome
    cases hsome
  rw [runStart_msg_read (.inl hlen)] at hread
  exact ⟨a, hlen, hread, congrArg (andThen · performFinal) hfault⟩

/-- Where the message is written, RUN runs its loop over every block and serialises what it leaves. -/
theorem performRun_of_written (h : s.MsgWritten 0 s.len.toNat) :
    ∃ u, performIterate (runStart x s) = .next u ∧ DataStep (runStart x s) u ∧ u.blk = u.nblk ∧
      performRun x s = .next (finalEffect u) := by
  have hsteps := performIterate_of_written (runStart_hashWritten x s)
  rw [runStart_blk, BitVec.toNat_zero, Nat.zero_mul, runStart_variant, runStart_nblk_mul_blockBytes,
    runStart_msgWritten_iff, Nat.zero_max] at hsteps
  obtain ⟨u, hu, hd, hblk⟩ := hsteps h
  refine ⟨u, hu, hd, BitVec.eq_of_toNat_eq (by rw [hblk, hd.nblk]), ?_⟩
  rw [performRun, ← runStart, hu, andThen_next, performFinal_eq (hd.hashWritten (runStart_hashWritten x s)),
    finalEffect]

/-- What RUN leaves: the fields that its four commands write, and BLK = NBLK. -/
theorem run_frame {u t : State} (hd : DataStep (runStart x s) u) (hblk : u.blk = u.nblk) (ht : t = finalEffect u) :
    t = ((((((((s.setVariant x).setH t.h).setWs t.ws).setW t.w).setMsg t.msg).setDig t.dig).setNblk t.nblk).setBlk
      t.nblk).setStatus { s.status with valid := true, padded := true, done := true } := by
  obtain ⟨w, ws, h, b, hframe⟩ : ∃ w ws h b, u = ((((runStart x s).setW w).setWs ws).setH h).setBlk b :=
    ⟨_, _, _, _, hd.frame⟩
  subst hframe
  obtain rfl : b = (runStart x s).nblk := hblk
  rw [ht]
  rfl

end Run

/-- Settles O41: the cases of RUN, whose loop runs over the padded message. -/
theorem runMeaning : Obligations.RunMeaning := by
  refine ⟨formatV_of_row fun _ hop => by rw [tableRow, hop]; rfl, fun s => ⟨rfl, fun x =>
    ⟨exec_run_of_overflow, exec_run_eq_commands, fun hp hm => ?_, fun hp hm => ?_⟩⟩⟩
  · rw [exec_run_of_fits hp]
    exact performRun_of_unwritten hm
  · obtain ⟨u, -, hd, hblk, hrun⟩ := performRun_of_written (x := x) hm
    refine ⟨finalEffect u, (exec_run_of_fits hp).trans hrun, run_frame hd hblk rfl, ?_, fun a ha => ?_⟩
    · show u.nblk.toNat = _
      rw [hd.nblk]
      exact toNat_runStart_nblk x s
    · show u.msg.read a = _
      rw [hd.msg]
      exact runStart_msg_read ha

end Sys2Proof.Machine
end

section
/-! SUPPORT. The bytes of MSG as the byte lists that the document's pure function is about: the padded message, its
blocks and their words (00_scope.md R14, 41_padding.md R142, 42_schedule.md R160). -/

namespace Sys2Proof.Machine

/-- `n` consecutive bytes of a buffer. -/
def Memory.bytes (m : Memory) (a n : Nat) : List Byte := (List.range n).map fun k => m.byteAt (a + k)

theorem Memory.length_bytes (m : Memory) (a n : Nat) : (m.bytes a n).length = n := by simp [Memory.bytes]

theorem Memory.getElem_bytes (m : Memory) (a n : Nat) {k : Nat} (hk : k < (m.bytes a n).length) :
    (m.bytes a n)[k] = m.byteAt (a + k) := by simp [Memory.bytes]

theorem Memory.take_drop_bytes (m : Memory) (a : Nat) {n i l : Nat} (h : i + l ≤ n) :
    ((m.bytes a n).drop i).take l = m.bytes (a + i) l := by
  refine List.ext_getElem (by simp [Memory.length_bytes]; omega) fun k _ _ => ?_
  rw [List.getElem_take, List.getElem_drop, Memory.getElem_bytes, Memory.getElem_bytes, Nat.add_assoc]

theorem Memory.bytes_congr {m m' : Memory} {a n : Nat} (h : ∀ k < n, m.read (a + k) = m'.read (a + k)) :
    m.bytes a n = m'.bytes a n :=
  List.map_congr_left fun k hk => by rw [Memory.byteAt, Memory.byteAt, h k (List.mem_range.mp hk)]

/-- Consecutive writes, read back. -/
theorem Memory.bytes_writeBytes (m : Memory) (a : Nat) (bs : List Byte) :
    (m.writeBytes a bs).bytes a bs.length = bs := by
  refine List.ext_getElem (Memory.length_bytes ..) fun k _ hk => ?_
  rw [Memory.getElem_bytes, Memory.byteAt, Memory.read_writeBytes_inside m hk, Option.getD_some]

theorem Memory.bytes_append (m : Memory) (a n l : Nat) : m.bytes a (n + l) = m.bytes a n ++ m.bytes (a + n) l := by
  simp only [Memory.bytes, List.range_add, List.map_append, List.map_map, Function.comp_def, Nat.add_assoc]

/-- The blocks of a buffer's bytes are the runs of bytes one after the other. -/
theorem blocksOf_bytes (m : Memory) (count : Nat) {b : Nat} (hb : 0 < b) :
    blocksOf b (m.bytes 0 (count * b)) = (List.range count).map fun k => m.bytes (k * b) b := by
  rw [blocksOf, Memory.length_bytes, Nat.mul_div_cancel _ hb]
  refine List.map_congr_left fun k hk => ?_
  have hend := Nat.mul_le_mul_right b (Nat.succ_le_of_lt (List.mem_range.mp hk))
  rw [Memory.take_drop_bytes m 0 (by rwa [← Nat.succ_mul]), Nat.zero_add]

/-- The words of block BLK are the words of its bytes (42_schedule.md R160). -/
theorem blockWords_eq (w : Nat) (s : State) :
    blockWords w s =
      wordsOfBlock w (wordBytes s.variant) (s.msg.bytes (blockStart s) (blockBytes s.variant)) := by
  refine List.map_congr_left fun j hj => ?_
  have hend : j * wordBytes s.variant + wordBytes s.variant ≤ blockBytes s.variant := by
    have hsize : blockBytes s.variant = 16 * wordBytes s.variant := by cases s.variant <;> rfl
    rw [hsize, ← Nat.succ_mul]
    exact Nat.mul_le_mul_right _ (List.mem_range.mp hj)
  rw [Memory.take_drop_bytes s.msg _ hend]
  rfl

/-- After INIT and PAD the bytes from 0 up to the padded length are the padded message (41_padding.md R142). -/
theorem runStart_bytes (x : Variant) (s : State) :
    (runStart x s).msg.bytes 0 (padLen x s.len.toNat) = paddedMessage x (message s) := by
  have hmessage : s.msg.bytes 0 s.len.toNat = message s := by simp only [Memory.bytes, message, Nat.zero_add]
  have hlen : (message s).length = s.len.toNat := by rw [← hmessage, Memory.length_bytes]
  have hkept : (runStart x s).msg.bytes 0 s.len.toNat = s.msg.bytes 0 s.len.toNat :=
    Memory.bytes_congr fun k hk => runStart_msg_read (.inl (by omega))
  rw [← paddingBytes_length, Memory.bytes_append, hkept, hmessage, paddedMessage, hlen, Nat.zero_add]
  exact congrArg _ (Memory.bytes_writeBytes ..)

end Sys2Proof.Machine
end

section
/-! SUPPORT. The machine against word functions over tuples, for every variant at once: a run of STEPs folds the blocks
of MSG into the tuple that H holds (43_compression.md R192, 44_chaining.md R212 to R217). -/

namespace Sys2Proof.Machine

/-! ### The cells that hold a tuple -/

/-- The first cells of a file hold the words given. -/
def Holds {n : Nat} (f : Vector DataCell n) (vs : List Word) : Prop :=
  ∀ i (hi : i < vs.length), cellValue f i = vs[i]

theorem Holds.writeFirst {n : Nat} (f : Vector DataCell n) {vs : List Word} (h : vs.length ≤ n) :
    Holds (writeFirst f vs) vs := fun i hi => by
  rw [cellValue_writeFirst_of_lt f hi (hi.trans_le h), List.getD_eq_getElem _ _ hi]

/-- The low word of a cell, for a width that is a variable: `lowWord` before the zero extension (10_state.md R46). -/
def low (w : Nat) (x : Word) : BitVec w := x.setWidth w

/-- For words as wide as a cell both views are the word itself. -/
theorem low_self (x : Word) : low 64 x = x := BitVec.setWidth_eq x

theorem zext64_self (x : Word) : zext64 x = x := BitVec.setWidth_eq x

theorem lowWord_eq (v : Variant) (x : Word) : lowWord v x = zext64 (low (wordBits v) x) := by
  cases v with
  | A => rfl
  | B => rfl
  | C => exact ((zext64_self _).trans (low_self x)).symm

theorem addWords_eq (v : Variant) (x y : Word) :
    addWords v x y = zext64 (low (wordBits v) x + low (wordBits v) y) := by
  cases v with
  | A => rfl
  | B => rfl
  | C => exact ((zext64_self _).trans (congrArg₂ (· + ·) (low_self x) (low_self y))).symm

theorem wordBits_le (v : Variant) : wordBits v ≤ 64 := by cases v <;> decide

theorem low_zext64 (v : Variant) (x : BitVec (wordBits v)) : low (wordBits v) (zext64 x) = x := by
  rw [low, zext64, BitVec.setWidth_setWidth_of_le x (wordBits_le v), BitVec.setWidth_eq]

/-! ### What the three variants share -/

/-- The word functions of a variant over its tuples, and that they are those that the machine applies to its cells. -/
structure Kernel (v : Variant) (α : Type) where
  /-- The components of a tuple in order. -/
  toList : α → List (BitVec (wordBits v))
  /-- The tuple with the components given. -/
  ofFn : (Nat → BitVec (wordBits v)) → α
  /-- The round function (43_compression.md R182, R186, R189). -/
  round : Nat → BitVec (wordBits v) → α → α
  /-- The word-wise sum (44_chaining.md R212). -/
  add : α → α → α
  /-- The recurrence of the schedule, for VARIANT_A_SCHED_ROT (42_schedule.md R161, R163, R165). -/
  next : Bool → List (BitVec (wordBits v)) → BitVec (wordBits v)
  toList_length : ∀ x, (toList x).length = stateWords v
  ofFn_eq : ∀ {f x}, (∀ i (hi : i < (toList x).length), f i = (toList x)[i]) → ofFn f = x
  toList_add : ∀ x y, toList (add x y) = List.zipWith (· + ·) (toList x) (toList y)
  /-- The initial hash values have no bits above the word width (44_chaining.md R210). -/
  words_init : (toList (ofFn fun i => low _ ((initialHash v).getD i 0#64))).map zext64 = initialHash v
  roundWords_eq : ∀ {s : State} (t : Nat), s.variant = v → roundWords t s =
    (toList (round t (low _ (cellValue s.w t)) (ofFn fun i => low _ (cellValue s.ws i)))).map zext64
  scheduleWords_eq : ∀ {s : State}, s.variant = v →
    scheduleWords s = (schedule (next s.params.schedRot) (rounds v) (blockWords _ s)).map zext64

namespace Kernel

variable {v : Variant} {α : Type} (K : Kernel v α)

/-- A tuple as the words that its cells hold. -/
def words (x : α) : List Word := (K.toList x).map zext64

/-- The initial hash value (44_chaining.md R210). -/
def init : α := K.ofFn fun i => low _ ((initialHash v).getD i 0#64)

/-- The schedule of a block (42_schedule.md R166). -/
def scheduleOf (schedRot : Bool) (block : List Byte) : List (BitVec (wordBits v)) :=
  schedule (K.next schedRot) (rounds v) (wordsOfBlock _ (wordBytes v) block)

/-- The rounds of a list one after the other, for the words of the schedule by their index. -/
def runRounds (w : Nat → BitVec (wordBits v)) (ts : List Nat) (x : α) : α :=
  ts.foldl (fun x t => K.round t (w t) x) x

/-- One block compressed into the hash state (43_compression.md R192). -/
def compress (schedRot : Bool) (hs : α) (block : List Byte) : α :=
  K.add hs (K.runRounds ((K.scheduleOf schedRot block).getD · 0#_) (List.range (rounds v)) hs)

/-- The hash state serialised (44_chaining.md R215). -/
def serialise (x : α) : List Byte := (K.toList x).flatMap fun y => bytesBE (wordBytes v) y.toNat

/-- The digest of a byte list (44_chaining.md R217). -/
def digest (schedRot : Bool) (m : List Byte) : List Byte :=
  K.serialise ((blocksOf (blockBytes v) (paddedMessage v m)).foldl (K.compress schedRot) K.init)

theorem words_length (x : α) : (K.words x).length = stateWords v := by rw [words, List.length_map, K.toList_length]

theorem runRounds_congr {w w' : Nat → BitVec (wordBits v)} {ts : List Nat} (h : ∀ t ∈ ts, w t = w' t) (x : α) :
    K.runRounds w ts x = K.runRounds w' ts x :=
  List.foldl_ext _ _ x fun y t ht => congrArg (K.round t · y) (h t ht)

section Cells
variable {K} {s t : State} {x y : α}

theorem holds_writeFirst (f : Vector DataCell 8) : Holds (writeFirst f (K.words x)) (K.words x) :=
  Holds.writeFirst f (by rw [words_length]; exact stateWords_le v)

theorem low_cellValue {f : Vector DataCell 8} (h : Holds f (K.words x)) {i : Nat} (hi : i < (K.toList x).length) :
    low _ (cellValue f i) = (K.toList x)[i] := by
  rw [h i (by rwa [words, List.length_map])]
  exact (congrArg _ (List.getElem_map _)).trans (low_zext64 v _)

theorem low_cellValue_of_lt {f : Vector DataCell 8} (h : Holds f (K.words x)) {i : Nat} (hi : i < stateWords v) :
    low _ (cellValue f i) = (K.toList x)[i]'(by rwa [K.toList_length]) :=
  low_cellValue h _

/-! ### The parts of STEP on the cells that hold a tuple -/

theorem wsinitWords_eq (hv : s.variant = v) (h : Holds s.h (K.words x)) : wsinitWords s = K.words x := by
  subst hv
  refine List.ext_getElem (by rw [wsinitWords_length, words_length]) fun i hi _ => ?_
  rw [wsinitWords_length] at hi
  simp only [wsinitWords, words, List.getElem_map, List.getElem_range, lowWord_eq, low_cellValue_of_lt h hi]

theorem chainWords_eq (hv : s.variant = v) (h : Holds s.h (K.words x)) (hws : Holds s.ws (K.words y)) :
    chainWords s = K.words (K.add x y) := by
  subst hv
  refine List.ext_getElem (by rw [chainWords_length, words_length]) fun i hi _ => ?_
  rw [chainWords_length] at hi
  simp only [chainWords, words, List.getElem_map, List.getElem_range, addWords_eq, low_cellValue_of_lt h hi,
    low_cellValue_of_lt hws hi, K.toList_add, List.getElem_zipWith]

theorem performWsinit_holds (hv : s.variant = v) (h : Holds s.h (K.words x)) (ht : performWsinit s = .next t) :
    t = s.setWs t.ws ∧ Holds t.ws (K.words x) := by
  cases (needWritten_next ht).1
  refine ⟨rfl, ?_⟩
  rw [State.setWs_ws, wsinitWords_eq hv h]
  exact holds_writeFirst s.ws

theorem performRound_holds {k : Nat} (hv : s.variant = v) (h : Holds s.ws (K.words x))
    (ht : performRound k s = .next t) :
    t = s.setWs t.ws ∧ Holds t.ws (K.words (K.round k (low _ (cellValue s.w k)) x)) := by
  cases (needWritten_next ht).1
  refine ⟨rfl, ?_⟩
  rw [State.setWs_ws, K.roundWords_eq k hv, K.ofFn_eq fun _ => low_cellValue h]
  exact holds_writeFirst s.ws

theorem performRounds_holds {count first : Nat} (hv : s.variant = v) (h : Holds s.ws (K.words x))
    (ht : performRounds count first s = .next t) :
    t = s.setWs t.ws ∧
      Holds t.ws (K.words (K.runRounds (fun k => low _ (cellValue s.w k)) (List.range' first count) x)) := by
  induction count generalizing first s x with
  | zero => cases ht; exact ⟨rfl, h⟩
  | succ count ih =>
    obtain ⟨u, hu, ht⟩ := andThen_eq_next ht
    obtain ⟨hframe, hround⟩ := performRound_holds hv h hu
    obtain ⟨hframe', hrest⟩ := ih (by rw [hframe]; exact hv) hround ht
    have hw : u.w = s.w := by rw [hframe]; rfl
    rw [hw] at hrest
    exact ⟨by rw [hframe', hframe]; rfl, hrest⟩

theorem performChain_holds (hv : s.variant = v) (h : Holds s.h (K.words x)) (hws : Holds s.ws (K.words y))
    (ht : performChain s = .next t) : Holds t.h (K.words (K.add x y)) := by
  cases (needWritten_next ht).1
  rw [State.setH_h, chainWords_eq hv h hws]
  exact holds_writeFirst s.h

/-- The bytes of block BLK. -/
def blockOf (v : Variant) (s : State) : List Byte := s.msg.bytes (s.blk.toNat * blockBytes v) (blockBytes v)

/-- W[k] holds entry k of the schedule of the block. -/
theorem low_cellValue_expandEffect (hv : s.variant = v) {k : Nat} (hk : k < rounds v) :
    low _ (cellValue (expandEffect s).w k) = (K.scheduleOf s.params.schedRot (blockOf v s)).getD k 0#_ := by
  subst hv
  have hzero : (0#64 : Word) = zext64 0#(wordBits s.variant) := by simp [zext64]
  rw [cellValue_expandEffect hk, K.scheduleWords_eq rfl, blockWords_eq, hzero, List.getD_map, low_zext64]
  rfl

/-- STEP compresses block BLK into the tuple that H holds. -/
theorem performStep_holds (hv : s.variant = v) (h : Holds s.h (K.words x)) (ht : performStep s = .next t) :
    Holds t.h (K.words (K.compress s.params.schedRot x (blockOf v s))) := by
  obtain ⟨e, i, r, c, he, hi, hr, hc, rfl⟩ := performStep_next ht
  cases (needWritten_next he).1
  obtain ⟨hiframe, hiholds⟩ := performWsinit_holds (s := expandEffect s) hv h hi
  have hiv : i.variant = v := by rw [hiframe]; exact hv
  have hiw : i.w = (expandEffect s).w := by rw [hiframe]; rfl
  obtain ⟨hrframe, hrholds⟩ := performRounds_holds hiv hiholds hr
  have hrh : r.h = s.h := by rw [hrframe, hiframe]; rfl
  have hrv : r.variant = v := by rw [hrframe]; exact hiv
  rw [hiv, hiw, ← List.range_eq_range'] at hrholds
  have hsum := performChain_holds hrv (by rwa [hrh]) hrholds hc
  rw [runRounds_congr K fun k hk => low_cellValue_expandEffect hv (List.mem_range.mp hk)] at hsum
  exact hsum

/-- A run of STEPs compresses the blocks from BLK upward, one after the other. -/
theorem performSteps_holds {count : Nat} (hv : s.variant = v) (h : Holds s.h (K.words x))
    (hfit : s.blk.toNat + count < 2 ^ 64) (ht : performSteps count s = .next t) :
    Holds t.h (K.words (((List.range' s.blk.toNat count).map fun k =>
      s.msg.bytes (k * blockBytes v) (blockBytes v)).foldl (K.compress s.params.schedRot) x)) := by
  induction count generalizing s x with
  | zero => cases ht; exact h
  | succ count ih =>
    obtain ⟨u, hu, ht⟩ := andThen_eq_next ht
    have hd := performStep_dataStep hu
    have hblk : u.blk.toNat = s.blk.toNat + 1 := by
      rw [performStep_blk hu]
      exact BitVec.toNat_add_of_lt (show s.blk.toNat + 1 < 2 ^ 64 by omega)
    have hrest := ih (hd.variant.trans hv) (performStep_holds hv h hu) (by omega) ht
    rw [hblk, hd.msg, hd.params] at hrest
    exact hrest

/-! ### RUN -/

theorem digestPart_eq (hv : s.variant = v) (h : Holds s.h (K.words x)) : digestPart s = K.serialise x := by
  have hbytes : digestPart s = (wsinitWords s).flatMap fun y => bytesBE (wordBytes s.variant) y.toNat := by
    rw [wsinitWords, List.flatMap_map, digestPart]
  rw [hbytes, wsinitWords_eq hv h, hv, words, List.flatMap_map, serialise]
  refine List.flatMap_congr fun y _ => ?_
  rw [zext64, BitVec.toNat_setWidth_of_le (wordBits_le v)]

/-- INIT leaves the initial hash value in H. -/
theorem runStart_holds : Holds (runStart v s).h (K.words K.init) := fun i hi => by
  have hcell := cellValue_initEffect v s (i := i)
  rw [words_length] at hi
  refine (hcell (hi.trans_le (stateWords_le v))).trans ((initWords_getD hi).trans ?_)
  rw [List.getD_eq_getElem _ _ (by rwa [initialHash_length])]
  exact List.getElem_of_eq K.words_init.symm _

/-- The loop of RUN leaves the digest of the message in H. -/
theorem digestPart_run (hu : performIterate (runStart v s) = .next t) :
    digestPart t = K.digest s.params.schedRot (message s) := by
  have hsteps := performSteps_holds (runStart_variant v s) (runStart_holds (K := K))
    ((Nat.zero_add _).trans_lt (runStart v s).nblk.isLt) hu
  rw [digestPart_eq ((performSteps_dataStep hu).variant.trans (runStart_variant v s)) hsteps, digest, ← runStart_bytes,
    ← runStart_nblk_mul_blockBytes, blocksOf_bytes _ _ (blockBytes_pos v), List.range_eq_range']
  rfl

end Cells

end Kernel

end Sys2Proof.Machine
end

section
/-! SUPPORT. The word functions of the three variants, and RUN against the document's pure function (44_chaining.md
R217). -/

namespace Sys2Proof.Machine

theorem Work5.ofFn_eq {f : Nat → BitVec 32} {x : Work5} (h : ∀ i (hi : i < x.toList.length), f i = x.toList[i]) :
    Work5.ofFn f = x := by
  have hcell (i : Nat) (hi : i < 5) : f i = x.toList[i]'hi := h i hi
  simp only [Work5.ofFn, hcell, Nat.reduceLT]
  rfl

theorem Work8.ofFn_eq {w : Nat} {f : Nat → BitVec w} {x : Work8 w}
    (h : ∀ i (hi : i < x.toList.length), f i = x.toList[i]) : Work8.ofFn f = x := by
  have hcell (i : Nat) (hi : i < 8) : f i = x.toList[i]'hi := h i hi
  simp only [Work8.ofFn, hcell, Nat.reduceLT]
  rfl

theorem map_zext64_self (xs : List Word) : xs.map zext64 = xs := List.map_id'' zext64_self xs

/-- The word functions of Variant A. -/
def kernelA : Kernel .A Work5 where
  toList := Work5.toList
  ofFn := Work5.ofFn
  round := roundA
  add := Work5.add
  next := nextA
  toList_length _ := rfl
  ofFn_eq := Work5.ofFn_eq
  toList_add _ _ := rfl
  words_init := by decide
  roundWords_eq t hv := by rw [roundWords, hv]; rfl
  scheduleWords_eq hv := by rw [scheduleWords, hv]; rfl

/-- The word functions of Variant B. -/
def kernelB : Kernel .B (Work8 32) where
  toList := Work8.toList
  ofFn := Work8.ofFn
  round := roundB
  add := Work8.add
  next _ := nextB
  toList_length _ := rfl
  ofFn_eq := Work8.ofFn_eq
  toList_add _ _ := rfl
  words_init := by decide
  roundWords_eq t hv := by rw [roundWords, hv]; rfl
  scheduleWords_eq hv := by rw [scheduleWords, hv]; rfl

/-- The word functions of Variant C, whose words are as wide as the cells. -/
def kernelC : Kernel .C (Work8 64) where
  toList := Work8.toList
  ofFn := Work8.ofFn
  round := roundC
  add := Work8.add
  next _ := nextC
  toList_length _ := rfl
  ofFn_eq := Work8.ofFn_eq
  toList_add _ _ := rfl
  words_init := by decide
  roundWords_eq t hv := by
    rw [roundWords, hv]
    exact (map_zext64_self _).symm
  scheduleWords_eq hv := by rw [scheduleWords, hv]; exact (map_zext64_self _).symm

/-- The pure function is the one that the word functions of its variant give. -/
theorem exists_kernel (v : Variant) :
    ∃ (α : Type) (K : Kernel v α), ∀ schedRot m, digestOf schedRot v m = K.digest schedRot m := by
  cases v with
  | A => exact ⟨_, kernelA, fun _ _ => rfl⟩
  | B => exact ⟨_, kernelB, fun _ _ => rfl⟩
  | C => exact ⟨_, kernelC, fun _ _ => rfl⟩

/-- Settles O42: the loop of RUN folds the blocks of the padded message into H as the pure function does. -/
theorem runComputesTheDigest : Obligations.RunComputesTheDigest := by
  intro s x hp hm
  obtain ⟨α, K, hdigest⟩ := exists_kernel x
  obtain ⟨u, hu, hd, -, hrun⟩ := performRun_of_written (x := x) hm
  have hvar : u.variant = x := hd.variant
  have hpart : digestPart u = digestOf s.params.schedRot x (message s) :=
    (K.digestPart_run hu).trans (hdigest _ _).symm
  refine ⟨finalEffect u, (exec_run_of_fits hp).trans hrun, ?_, fun a ha => ?_, fun a ha hge => ?_⟩
  · rw [← hpart, digestPart_length, hvar]
  · rw [← hpart]
    exact finalEffect_dig_read_digest u (by rwa [hvar])
  · exact finalEffect_dig_read_zero u ha (by rwa [hvar])

end Sys2Proof.Machine
end

section
/-! SUPPORT. The control commands: the words that are performed although an error stands, the handshake of a word that
changes nothing, and SRESET against the reset event (45_control.md, 60_exceptions.md R262 to R264). -/

namespace Sys2Proof.Machine

/-! ### The encodings, and the words of CLRERR and SRESET while an error stands -/

theorem nop_formatN : FormatN 0x00#8 0x00000000#32 .nop := formatN_of_row fun _ hop => by rw [tableRow, hop]; rfl

theorem clrerr_formatN : FormatN 0x1E#8 0x1E000000#32 .clrerr := formatN_of_row fun _ hop => by rw [tableRow, hop]; rfl

theorem sreset_formatN : FormatN 0x1F#8 0x1F000000#32 .sreset := formatN_of_row fun _ hop => by rw [tableRow, hop]; rfl

section Exempt
variable {op : BitVec 8} {word c : CmdWord} {i : Instr} (s : State)

/-- The word of CLRERR or SRESET is performed whatever ERR is (60_exceptions.md R264). -/
theorem performWord_of_exempt (hfmt : FormatN op word i) (hop : op = 0x1E#8 ∨ op = 0x1F#8)
    (hword : opField word = op) : performWord word s = exec i s := by
  subst hword
  exact performWord_of_ok (rejected_eq_false (.inr hop)) ((hfmt word rfl).1.trans (if_pos rfl))

/-- A malformed word with the opcode of CLRERR or SRESET raises ILLEGAL_CMD whatever ERR is (60_exceptions.md R264). -/
theorem performWord_of_malformed_exempt (hfmt : FormatN op word i) (hop : op = 0x1E#8 ∨ op = 0x1F#8)
    (hc : opField c = op) (hne : c ≠ word) : performWord c s = raise .illegalCmd s := by
  subst hc
  exact performWord_of_error (rejected_eq_false (.inr hop)) ((hfmt c rfl).1.trans (if_neg hne))

end Exempt

/-! ### NOP and the handshake -/

/-- The word of NOP changes nothing, whether it is performed or rejected. -/
theorem performWord_nop (s : State) : performWord 0x00000000#32 s = .next s := by
  by_cases hrej : rejected 0x00000000#32 s = true
  · exact if_pos hrej
  · exact performWord_of_ok (eq_false_of_ne_true hrej) (decode_encode .nop)

/-- Where no command is in flight, taking PENDING and clearing BUSY undo all of a CMD write but LASTCMD. -/
theorem withBusy_setPending_latch (c : CmdWord) {s : State} (hbusy : s.status.busy = false)
    (hpending : s.pending = none) :
    ((latch c s).setPending none).setStatus (((latch c s).setPending none).status.withBusy false) =
      s.setLastCmd c := by
  have hstatus : (s.status.withBusy true).withBusy false = s.status := by
    rw [Status.withBusy, Status.withBusy, ← hbusy]
  calc _ = ((s.setLastCmd c).setPending none).setStatus ((s.status.withBusy true).withBusy false) := rfl
    _ = ((s.setLastCmd c).setPending s.pending).setStatus s.status := by rw [hstatus, hpending]
    _ = s.setLastCmd c := rfl

/-- Settles O45: the CMD write latches the word, which changes nothing when the engine takes it. -/
theorem nopMeaning : Obligations.NopMeaning := by
  refine ⟨nop_formatN, fun _ => rfl, fun s hbusy hpending => ⟨latch 0x00000000#32 s, ?_, rfl, rfl, ?_⟩⟩
  · exact congrArg Host.Outcome.next (regWrite_of_idle 0#64 s (r := .cmd) rfl rfl hbusy)
  · calc engineMove (latch 0x00000000#32 s)
        = andThen (performWord 0x00000000#32 ((latch 0x00000000#32 s).setPending none)) finishStep :=
          engineMove_of_pending rfl rfl
      _ = finishStep ((latch 0x00000000#32 s).setPending none) := by rw [performWord_nop, andThen_next]
      _ = .next (s.setLastCmd 0x00000000#32) :=
          congrArg Host.Outcome.next (withBusy_setPending_latch _ hbusy hpending)

/-! ### CLRERR -/

theorem performWord_clrerr (s : State) : performWord 0x1E000000#32 s = exec .clrerr s :=
  performWord_of_exempt s clrerr_formatN (.inl rfl) rfl

/-- Settles O46: the opcode is exempt from the check of ERR. -/
theorem clrerrMeaning : Obligations.ClrerrMeaning :=
  ⟨clrerr_formatN, fun s => ⟨rfl, performWord_clrerr s⟩,
    fun s _ => performWord_of_malformed_exempt s clrerr_formatN (.inl rfl)⟩

/-! ### SRESET -/

theorem performWord_sreset (s : State) : performWord 0x1F000000#32 s = exec .sreset s :=
  performWord_of_exempt s sreset_formatN (.inr rfl) rfl

/-- The engine step that performs SRESET ends in its effect with BUSY clear. -/
theorem engineStep_sreset (s : State) :
    engineStep (s.setPending (some 0x1F000000#32)) = finishStep (sresetEffect (s.setPending none)) :=
  congrArg (andThen · finishStep) (performWord_sreset (s.setPending none))

/-- Settles O47: the opcode is exempt from the check of ERR, and the engine step also clears PENDING and BUSY, as the
reset event does. -/
theorem sresetMeaning : Obligations.SresetMeaning :=
  ⟨sreset_formatN, fun s => ⟨rfl, performWord_sreset s⟩,
    fun s _ => performWord_of_malformed_exempt s sreset_formatN (.inr rfl),
    fun s => ⟨_, engineStep_sreset s, rfl⟩⟩

end Sys2Proof.Machine
end

section
/-! SUPPORT. The check table of 60_exceptions.md R262, run against the commands: what the checks of one command are, and
that performing a word raises the first of the table that fails. -/

namespace Sys2Proof.Machine

/-! ### Lists of checks -/

/-- `r` answers no next state, or one whose ERR is that of `s` or NONE. -/
def RaisesNothing (s : State) (r : Result) : Prop :=
  ∀ t, r = .next t → t.status.err = s.status.err ∨ t.status.err = .none

/-- `r` is what comes of running the checks in `s`: the first that fails raises its code, and where none fails no error
is raised (60_exceptions.md R262). -/
def RunsChecks (checks : List (Prop × ErrCode)) (s : State) (r : Result) : Prop :=
  (∀ code, FirstFailing checks code → r = raise code s) ∧ (NoneFails checks → RaisesNothing s r)

theorem runsChecks_nil {s : State} {r : Result} (h : RaisesNothing s r) : RunsChecks [] s r :=
  ⟨fun _ => False.elim, fun _ => h⟩

/-- A check that fails raises its code; one that passes leaves the rest to run. -/
theorem runsChecks_cons {p : Prop} {e : ErrCode} {checks : List (Prop × ErrCode)} {s : State} {r : Result}
    (hfail : p → r = raise e s) (hpass : ¬p → RunsChecks checks s r) : RunsChecks ((p, e) :: checks) s r := by
  constructor
  · rintro code (⟨hp, rfl⟩ | ⟨hp, hfirst⟩)
    · exact hfail hp
    · exact (hpass hp).1 code hfirst
  · intro hnone
    obtain ⟨hp, hrest⟩ := List.forall_mem_cons.mp hnone
    exact (hpass hp).2 hrest

theorem ite_raise_runsChecks {p q : Prop} [Decidable q] {e : ErrCode} {checks : List (Prop × ErrCode)} {s : State}
    {r : Result} (hpq : ¬q ↔ p) (hr : q → RunsChecks checks s r) :
    RunsChecks ((p, e) :: checks) s (if q then r else raise e s) := by
  refine runsChecks_cons (fun hp => if_neg (hpq.mpr hp)) fun hp => ?_
  have hq : q := not_not.mp (hp ∘ hpq.mp)
  rw [if_pos hq]
  exact hr hq

theorem requireValid_runsChecks {checks : List (Prop × ErrCode)} {s : State} {r : Result}
    (hr : RunsChecks checks s r) : RunsChecks ((s.status.valid = false, .notInit) :: checks) s (requireValid s r) :=
  ite_raise_runsChecks (Bool.not_eq_true _).to_iff fun _ => hr

/-! ### Effects raise nothing -/

theorem raisesNothing_of_err {s t : State} (h : t.status.err = s.status.err) : RaisesNothing s (.next t) := by
  rintro _ ⟨⟩
  exact .inl h

theorem runsChecks_nil_of_dataStep {s : State} {r : Result} (h : ∀ t, r = .next t → DataStep s t) :
    RunsChecks [] s r := runsChecks_nil fun t ht => .inl (congrArg Status.err (h t ht).status)

theorem needWritten_raisesNothing {cells : List CellId} {s : State} {r : Result} (h : RaisesNothing s r) :
    RaisesNothing s (needWritten cells s r) := fun t ht => h t (needWritten_next ht).1

theorem performFinal_raisesNothing (s : State) : RaisesNothing s (performFinal s) := by
  intro t ht
  obtain ⟨rfl, -⟩ := performFinal_next ht
  exact .inl rfl

theorem padEffect_err (s : State) : (padEffect s).status.err = s.status.err := by simp [padEffect]

/-- The parts of RUN before FINAL keep ERR. -/
theorem DataStep.err_of_padInit {v : Variant} {s u : State} (h : DataStep (padEffect (initEffect v s)) u) :
    u.status.err = s.status.err :=
  (congrArg Status.err h.status).trans (padEffect_err _)

theorem performRun_raisesNothing (v : Variant) (s : State) : RaisesNothing s (performRun v s) := by
  intro t ht
  obtain ⟨u, hu, ht⟩ := andThen_eq_next ht
  obtain ⟨rfl, -⟩ := performFinal_next ht
  exact .inl (performSteps_dataStep hu).err_of_padInit

/-! ### The checks of each command -/

/-- Steps 4 to 9 of 60_exceptions.md R262 for one command: the checks that its opcode makes apply. -/
def commandChecks (i : Instr) (s : State) : List (Prop × ErrCode) :=
  match i with
  | .nop | .clrerr | .sreset => []
  | .rotl32 n | .rotr32 n => [(¬(1 ≤ n.toNat ∧ n.toNat ≤ 31), .badShift)]
  | .rotl64 n | .rotr64 n => [(¬(1 ≤ n.toNat ∧ n.toNat ≤ 63), .badShift)]
  | .init v => [(v = 3#2, .badVariant)]
  | .pad => [(s.status.valid = false, .notInit), (s.params.msgCap < padLen s.variant s.len.toNat, .bufOverflow)]
  | .expand | .step => [(s.status.valid = false, .notInit), (s.nblk.toNat ≤ s.blk.toNat, .noBlock)]
  | .round t => [(s.status.valid = false, .notInit), (rounds s.variant ≤ t.toNat, .badRound)]
  | .wsinit | .chain | .compress | .final => [(s.status.valid = false, .notInit)]
  | .iterate => [(s.status.valid = false, .notInit), (s.status.padded = false, .notPadded)]
  | .run v =>
    [(v = 3#2, .badVariant),
      (∃ x, variantOfCode v = some x ∧ s.params.msgCap < padLen x s.len.toNat, .bufOverflow)]

theorem rotateInto_runsChecks {max : Nat} (n : BitVec 8) (x : Word) (s : State) :
    RunsChecks [(¬(1 ≤ n.toNat ∧ n.toNat ≤ max), .badShift)] s (rotateInto (max + 1) n x s) :=
  runsChecks_cons rotateInto_of_illegalAmount fun hn => runsChecks_nil <| by
    rw [rotateInto_of_legalAmount (not_not.mp hn)]
    exact needWritten_raisesNothing (raisesNothing_of_err rfl)

theorem variantOfCode_eq_none {v : BitVec 2} : variantOfCode v = none ↔ v = 3#2 := by
  revert v; decide

theorem not_fits_iff {v : Variant} {s : State} : ¬fits v s = true ↔ s.params.msgCap < padLen v s.len.toNat := by
  rw [fits, decide_eq_true_iff, not_le]

theorem not_hasBlock_iff {s : State} : ¬hasBlock s = true ↔ s.nblk.toNat ≤ s.blk.toNat := by
  rw [hasBlock, decide_eq_true_iff, not_lt]

theorem execInit_runsChecks (v : BitVec 2) (s : State) : RunsChecks [(v = 3#2, .badVariant)] s (execInit v s) := by
  rw [← variantOfCode_eq_none, execInit]
  split
  · rename_i x hx
    rw [hx]
    exact runsChecks_cons nofun fun _ => runsChecks_nil (raisesNothing_of_err rfl)
  · rename_i hx
    exact runsChecks_cons (fun _ => rfl) (absurd hx)

theorem execRun_runsChecks (v : BitVec 2) (s : State) : RunsChecks (commandChecks (.run v) s) s (execRun v s) := by
  rw [commandChecks, ← variantOfCode_eq_none, execRun]
  split
  · rename_i x hx
    rw [hx]
    refine runsChecks_cons nofun fun _ => ite_raise_runsChecks ?_ fun _ => runsChecks_nil (performRun_raisesNothing x s)
    simpa using not_fits_iff
  · rename_i hx
    exact runsChecks_cons (fun _ => rfl) (absurd hx)

/-- A command raises the first of its checks that fails, and nothing where none fails. -/
theorem exec_runsChecks (i : Instr) (s : State) : RunsChecks (commandChecks i s) s (exec i s) := by
  cases i with
  | nop => exact runsChecks_nil (raisesNothing_of_err rfl)
  | rotl32 n | rotr32 n | rotl64 n | rotr64 n => exact rotateInto_runsChecks n _ s
  | init v => exact execInit_runsChecks v s
  | pad =>
    exact requireValid_runsChecks
      (ite_raise_runsChecks not_fits_iff fun _ => runsChecks_nil (raisesNothing_of_err (padEffect_err s)))
  | expand =>
    exact requireValid_runsChecks
      (ite_raise_runsChecks not_hasBlock_iff fun _ => runsChecks_nil_of_dataStep fun _ => performExpand_dataStep)
  | wsinit => exact requireValid_runsChecks (runsChecks_nil_of_dataStep fun _ => performWsinit_dataStep)
  | round t =>
    exact requireValid_runsChecks
      (ite_raise_runsChecks not_lt fun _ => runsChecks_nil_of_dataStep fun _ => performRound_dataStep)
  | chain => exact requireValid_runsChecks (runsChecks_nil_of_dataStep fun _ => performChain_dataStep)
  | compress => exact requireValid_runsChecks (runsChecks_nil_of_dataStep fun _ => performCompress_dataStep)
  | step =>
    exact requireValid_runsChecks
      (ite_raise_runsChecks not_hasBlock_iff fun _ => runsChecks_nil_of_dataStep fun _ => performStep_dataStep)
  | iterate =>
    exact requireValid_runsChecks
      (ite_raise_runsChecks (Bool.not_eq_true _).to_iff fun _ =>
        runsChecks_nil_of_dataStep fun _ => performSteps_dataStep)
  | final => exact requireValid_runsChecks (runsChecks_nil (performFinal_raisesNothing s))
  | run v => exact execRun_runsChecks v s
  | clrerr | sreset =>
    refine runsChecks_nil ?_
    rintro _ ⟨⟩
    exact .inr rfl

/-! ### The table -/

/-- For a word whose opcode selects a row, the table is the mask check of the row's format and then the checks of the
row's command: every other line asks for another opcode. -/
theorem runsChecks_checkTable {c : CmdWord} {f : Format} {i : Instr} {s : State} {r : Result}
    (hrow : tableRow c = some (f, i)) : RunsChecks (checkTable c s) s r ↔
      RunsChecks ((¬c &&& f.mask = matchWord (opField c), .illegalCmd) :: commandChecks i s) s r := by
  obtain ⟨hop, rfl⟩ := tableRow_some hrow
  unfold tableRow at hrow
  rw [hop] at hrow
  have hopcode : c.extractLsb' 24 8 = i.opcode := hop
  cases i <;> cases hrow <;>
    simp [RunsChecks, FirstFailing, NoneFails, checkTable, hopcode, Instr.opcode, Instr.format, maskCheck_n,
      maskCheck_i, maskCheck_v, opsN, opsI, opsV, needsValidOps, commandChecks, immField, varField, not_and_or,
      -not_and]

theorem opField_not_mem_of_no_row {c : CmdWord} (hrow : tableRow c = none) :
    (opField c).toNat ∉ opsN ∧ (opField c).toNat ∉ opsI ∧ (opField c).toNat ∉ opsV := by
  rw [tableRow_eq_none] at hrow
  simp only [opsN, opsI, opsV, List.mem_cons, List.not_mem_nil, or_false] at hrow ⊢
  omega

/-- Once step 1 is passed, performing a word runs the table. -/
theorem performWord_runsChecks {c : CmdWord} {s : State} (hrej : rejected c s = false) :
    RunsChecks (checkTable c s) s (performWord c s) := by
  cases hrow : tableRow c with
  | none =>
    have hdec := decode_reservedOpcode.mpr hrow
    exact runsChecks_cons (fun _ => performWord_of_error hrej hdec) (absurd (opField_not_mem_of_no_row hrow))
  | some row =>
    obtain ⟨f, i⟩ := row
    have hdec := decode_of_row hrow
    rw [runsChecks_checkTable hrow]
    refine runsChecks_cons (fun hmask => performWord_of_error hrej (hdec.trans (if_neg hmask))) fun hmask => ?_
    rw [performWord_of_ok hrej (hdec.trans (if_pos (not_not.mp hmask)))]
    exact exec_runsChecks i s

/-! ### Step 1 -/

/-- Step 1 of 60_exceptions.md R262 fails: the word changes nothing (R263). -/
theorem performWord_of_rejected {c : CmdWord} {s : State} (herr : s.status.err ≠ .none)
    (hclrerr : opField c ≠ 0x1E#8) (hsreset : opField c ≠ 0x1F#8) : performWord c s = .next s :=
  if_pos (by simp [rejected, exemptOpcode, herr, hclrerr, hsreset])

/-- Settles O8: step 1 is `performWord_of_rejected`, and steps 2 to 9 are `performWord_runsChecks`. -/
theorem checksRunInTableOrder : Obligations.ChecksRunInTableOrder := by
  refine fun s c => ⟨fun ⟨herr, hclrerr, hsreset⟩ => performWord_of_rejected herr hclrerr hsreset, fun h => ?_⟩
  exact performWord_runsChecks (rejected_eq_false h)

end Sys2Proof.Machine
end

section
/-! SUPPORT. Errors and faults of the commands, the rejected word, and the idle block (60_exceptions.md R261 to
R272). -/

namespace Sys2Proof.Machine

/-- A command that ends raises an error and changes nothing else, or leaves ERR as it was, or clears it. -/
theorem CommandEnds.err {i : Instr} {s t : State} (h : CommandEnds i s t) :
    (∃ e, t = s.setStatus (s.status.withErr e)) ∨ t.status.err = s.status.err ∨ t.status.err = .none := by
  cases h with
  | raised e he => exact .inl ⟨e, rfl⟩
  | data h hi hp => exact .inr (.inl (congrArg Status.err h.status))
  | rotated r hi hp => exact .inr (.inl rfl)
  | inited v hi hp => exact .inr (.inl rfl)
  | padded hi hv hf => exact .inr (.inl (padEffect_err s))
  | finalised hv hi hp => exact .inr (.inl rfl)
  | cleared hi => exact .inr (.inr rfl)
  | restarted hi => exact .inr (.inr rfl)
  | ran w hi v hv hf u hu hr => exact .inr (.inl hu.err_of_padInit)

/-- Settles O9: of the ways in which a command ends only the raising of an error gives ERR a new code. -/
theorem errorsArePrecise : Obligations.ErrorsArePrecise := by
  intro i s t h hne hnew
  obtain ⟨e, rfl⟩ | hkept | hcleared := (exec_next h).err
  · rfl
  · exact absurd hkept hnew
  · exact absurd hcleared hne

/-- A word that does not decode is rejected or raises ILLEGAL_CMD: it never faults (60_exceptions.md R266). -/
theorem performWord_completes_of_error {c : CmdWord} {e : DecodeError} (s : State) (hc : decode c = .error e) :
    Completes (performWord c s) := by
  cases hrej : rejected c s with
  | true => exact ⟨s, if_pos hrej⟩
  | false => exact ⟨_, performWord_of_error hrej hc⟩

/-- Settles O10: every read of a command goes through the mark check. -/
theorem onlyUnwrittenCellsFault : Obligations.OnlyUnwrittenCellsFault :=
  ⟨exec_faults, fun _ s _ => performWord_completes_of_error s⟩

/-- Settles O58: the invariant keeps PENDING valid and the blocks inside MSG, so every read finds a written cell. -/
theorem everyStepCompletesOnWrittenCells : Obligations.EveryStepCompletesOnWrittenCells :=
  fun _ => step_completes

/-- Settles O6: the engine takes the rejected word and clears BUSY, and the CMD write does not ask for ERR. -/
theorem rejectedWhileErrorStands : Obligations.RejectedWhileErrorStands := by
  refine ⟨fun s c hnext hbusy hc herr hclrerr hsreset => ?_, fun s v _ hbusy => ?_⟩
  · rw [step_of_pending hnext hbusy hc, performWord_of_rejected (by exact herr) hclrerr hsreset]
    rfl
  · exact congrArg Host.Outcome.next (regWrite_of_idle v s (r := .cmd) rfl rfl hbusy)

theorem engineMove_of_idle {s : State} (hbusy : s.status.busy = false) : engineMove s = .next s :=
  if_neg (by simp [hbusy])

/-- Settles O12: with no event listed the engine is next, and it does not move while BUSY = 0. -/
theorem idleBlockKeepsItsState : Obligations.IdleBlockKeepsItsState := by
  intro s hbusy htodo
  rw [step_of_engineNext (.inl htodo), popEvent_of_no_event htodo, engineMove_of_idle hbusy]

end Sys2Proof.Machine
end

section
/-! SUPPORT. The state after reset and the reset event, and the end of the engine's move (70_reset_and_hazards.md R290,
R291, R302). -/

namespace Sys2Proof.Machine

/-! ### Reset -/

theorem cellWritten_replicate_unwritten (n i : Nat) :
    cellWritten (Vector.replicate n DataCell.unwritten) i = false := by
  rw [cellWritten, Vector.toList_replicate, List.getD_eq_getElem?_getD, List.getElem?_getD_replicate_default_eq]
  rfl

theorem statusWord_zero : statusWord Status.zero = 0#64 := by decide

/-- Every data cell is marked unwritten after reset (70_reset_and_hazards.md R290). -/
theorem isWritten_resetWith (p : Params) (port : HostPort) (c : CellId) :
    (State.resetWith p port).isWritten c = false := by
  cases c with
  | rotIn => rfl
  | rotOut => rfl
  | h i => exact cellWritten_replicate_unwritten 8 i
  | ws i => exact cellWritten_replicate_unwritten 8 i
  | w i => exact cellWritten_replicate_unwritten 80 i
  | msg a => exact congrArg Option.isSome (Memory.read_empty a)
  | dig a => exact congrArg Option.isSome (Memory.read_empty a)

/-- Settles O15: both buffers are empty, no flag is set and there is no block. -/
theorem resetMeetsTheInvariant : Obligations.ResetMeetsTheInvariant :=
  fun _ port hlegal => resetWith_inv port hlegal

/-- Settles O54: the control values are those that `State.resetWith` writes, and no cell of it is written. -/
theorem resetEventMeaning : Obligations.ResetEventMeaning :=
  fun s => ⟨resetEvent s, rfl, statusWord_zero, rfl, rfl, rfl, rfl, rfl, rfl, rfl, isWritten_resetWith s.params s.host⟩

/-! ### The end of the engine's move -/

/-- An idle block has no PENDING to leave behind; a busy one loses it at the start of the engine's step, no command puts
one back, and BUSY is cleared at the end (30_encoding.md R97). -/
theorem engineMove_clearsBusy {s t : State} (hpending : s.PendingIffBusy) (h : engineMove s = .next t) :
    t.status.busy = false ∧ t.pending = none := by
  obtain ⟨hidle, rfl⟩ | ⟨-, c, u, -, hu, rfl⟩ := engineMove_next h
  · have hnone : t.pending.isSome = false := hpending.symm.trans hidle
    exact ⟨hidle, Option.isNone_iff_eq_none.mp (Option.isSome_eq_false_iff.mp hnone)⟩
  · obtain ⟨i, hends⟩ := performWord_next hu
    exact ⟨rfl, hends.pending⟩

/-- Settles O13: the engine's move on the state with its event taken off the list. -/
theorem engineStepClearsBusy : Obligations.EngineStepClearsBusy := by
  intro s t hnext hpending h
  rw [step_of_engineNext hnext] at h
  exact engineMove_clearsBusy (s := popEvent s) hpending h

end Sys2Proof.Machine
end
